-- ==== Sys2Proof/Word.lean ====
section
/-! DEFINITION. The word of the machine (`20_memory.md` R72) and the byte the memory is kept in (assumption log 3). -/

namespace Sys2Proof

/-- A word: 32 bits, the only access width (R72). -/
abbrev Word := BitVec 32

/-- A quarter of a word, the unit the memory list is kept in (assumption log 3). -/
abbrev Byte := BitVec 8

end Sys2Proof
end

