-- ==== Sys2Proof/Config.lean ====
section
/-! DEFINITION. What an implementation fixes, and the free values of the model. -/

namespace Sys2Proof

/-- `MAX_CH`, the largest legal `NCH` (`00_scope.md` R8; assumption log 2). -/
def Config.maxCh : Nat := 16

/-- `MAX_B`, the largest legal block size (R8; assumption log 2). -/
def Config.maxB : Nat := 4096

/-- `MAX_TAPS`, the largest legal tap count (R8; assumption log 2). -/
def Config.maxTaps : Nat := 4096

/-- The range of the open parameter `FXW`, the width of a fixed-point sample (`00_scope.md` R9). -/
abbrev Config.FxWidth := Subtype fun n : Nat => 2 ≤ n ∧ n ≤ 32

/-- The default of `FXW` (R9; assumption log 1). -/
def Config.defaultFxWidth : Config.FxWidth := ⟨32, by decide⟩

/-- FREE VALUE (`10_state.md` R57, `93_implementation_defined.md` U2; assumption log 4): what a byte of data memory that
nothing has written since power-on holds, by its position in the memory list. -/
opaque Config.powerOnByte : Nat → Byte

/-- FREE VALUE (`00_scope.md` R14, `93_implementation_defined.md` U1; assumption log 5): the word from which the sign and
the payload of a NaN product are drawn, by its two operands. -/
opaque Config.nanProduct : Word → Word → Word

/-- FREE VALUE (R14, U1; assumption log 5): the word from which the sign and the payload of a NaN sum are drawn. -/
opaque Config.nanSum : Word → Word → Word

end Sys2Proof
end

