-- ==== Sys2Proof/Syntax.lean ====
section
/-! DEFINITION. The commands: one constructor for each row of `spec/opcode_table.json` (`30_encoding.md` R101). -/

namespace Sys2Proof

/-- A command of the `CMD` register (R101). The channel operand is the `CH` field of format `C` (R100); every other
operand is read from `ARG0 .. ARG3` (R103). -/
inductive Instr where
  /-- `NOP` (R254). -/
  | nop
  /-- `TOFLOAT` (R132). -/
  | tofloat
  /-- `TOFIXED` (R134). -/
  | tofixed
  /-- `STAGE c` (R151). -/
  | stage (c : Nat)
  /-- `CAPTURE c` (R153). -/
  | capture (c : Nat)
  /-- `CONFIGURE c` (R166, R167). -/
  | configure (c : Nat)
  /-- `DISPATCH` (R174). -/
  | dispatch
  /-- `ISDONE` (R180). -/
  | isdone
  /-- `WAITDONE` (R181). -/
  | waitdone
  /-- `START` (R210). -/
  | start
  /-- `STOP` (R211). -/
  | stop
  deriving DecidableEq, Repr

end Sys2Proof
end

