-- ==== Sys2Proof/WellFormed.lean ====
section
/-! DEFINITION. Which commands have an encoding: the channel operand fits the eight bits of `CH` (`30_encoding.md` R100). -/

namespace Sys2Proof

/-- `CH` is eight bits (R100). A channel of `MAX_CH` or more is well formed: the command itself rejects it (R102). -/
def Instr.channelFits (c : Nat) : Bool := decide (c < 256)

/-- The command has an encoding. -/
def Instr.wellFormed : Instr → Bool
  | .nop => true
  | .tofloat => true
  | .tofixed => true
  | .stage c => Instr.channelFits c
  | .capture c => Instr.channelFits c
  | .configure c => Instr.channelFits c
  | .dispatch => true
  | .isdone => true
  | .waitdone => true
  | .start => true
  | .stop => true

end Sys2Proof
end

