-- ==== Sys2Proof/Decode.lean ====
section
/-! DEFINITION. The command-word decoder, which rejects by name, and the encoder (`30_encoding.md` R100 to R102). -/

namespace Sys2Proof

/-- Why a command word is illegal (R102). -/
inductive IllegalWord where
  /-- `OPC` is none of the eleven values of R101. -/
  | unknownOpc (opc : BitVec 8)
  /-- The `ZERO` field is not 0. -/
  | zeroFieldNotZero (zero : BitVec 16)
  /-- A format `N` command with `CH` not 0. -/
  | channelNotZero (ch : BitVec 8)
  deriving DecidableEq, Repr

/-- `OPC`, bits 31:24 (R100). -/
def fieldOpc (w : Word) : BitVec 8 := w.extractLsb' 24 8

/-- `CH`, bits 23:16 (R100). -/
def fieldCh (w : Word) : BitVec 8 := w.extractLsb' 16 8

/-- `ZERO`, bits 15:0 (R100). -/
def fieldZero (w : Word) : BitVec 16 := w.extractLsb' 0 16

/-- The two formats of R100, by operation code, as R101 lists them. -/
inductive CommandFormat where
  /-- No channel: `CH` must be 0. -/
  | n (i : Instr)
  /-- `CH` is the channel number. -/
  | c (i : Instr)
  deriving DecidableEq, Repr

/-- The opcode map of R101, with `ch` the channel field of the word. -/
def opcodeRow (opc ch : BitVec 8) : Option CommandFormat :=
  match opc.toNat with
  | 0x00 => some (.n .nop)
  | 0x10 => some (.n .tofloat)
  | 0x11 => some (.n .tofixed)
  | 0x20 => some (.c (.stage ch.toNat))
  | 0x21 => some (.c (.capture ch.toNat))
  | 0x30 => some (.c (.configure ch.toNat))
  | 0x31 => some (.n .dispatch)
  | 0x32 => some (.n .isdone)
  | 0x33 => some (.n .waitdone)
  | 0x40 => some (.n .start)
  | 0x41 => some (.n .stop)
  | _ => none

/-- The command a word encodes, or why it is illegal (R101, R102). Total; no mode changes how a word is decoded (R113). -/
def decode (w : Word) : Except IllegalWord Instr :=
  match opcodeRow (fieldOpc w) (fieldCh w) with
  | none => .error (.unknownOpc (fieldOpc w))
  | some row =>
    if fieldZero w ≠ 0 then .error (.zeroFieldNotZero (fieldZero w))
    else
      match row with
      | .c i => .ok i
      | .n i => if fieldCh w ≠ 0 then .error (.channelNotZero (fieldCh w)) else .ok i

/-- The operation code of a command (R101). -/
def Instr.opc : Instr → Nat
  | .nop => 0x00
  | .tofloat => 0x10
  | .tofixed => 0x11
  | .stage _ => 0x20
  | .capture _ => 0x21
  | .configure _ => 0x30
  | .dispatch => 0x31
  | .isdone => 0x32
  | .waitdone => 0x33
  | .start => 0x40
  | .stop => 0x41

/-- The content of the `CH` field (R100): the channel, or 0 in format `N`. -/
def Instr.channel : Instr → Nat
  | .stage c => c
  | .capture c => c
  | .configure c => c
  | .nop => 0
  | .tofloat => 0
  | .tofixed => 0
  | .dispatch => 0
  | .isdone => 0
  | .waitdone => 0
  | .start => 0
  | .stop => 0

/-- The word of a command: `OPC`, `CH` and a zero field (R100). -/
def encode (i : Instr) : Word :=
  BitVec.ofNat 8 i.opc ++ BitVec.ofNat 8 i.channel ++ 0#16

/-- The command read from an instruction of the opcode table whose bits are `w` (one 32-bit word; bit 0 is the least
significant). A table row longer than one command word would be no command. -/
def decodeTableWord (nbits w : Nat) : Option Instr :=
  if nbits ≤ 32 ∧ w < 2 ^ 32 then (decode (BitVec.ofNat 32 w)).toOption else none

end Sys2Proof
end

