-- ==== Sys2Proof/Machine/State.lean ====
section
/-! DEFINITION. The state of the machine as plain data, its reset value, and the reasons a step can stop. -/

namespace Sys2Proof.Machine

/-- The orchestrator's phases (`10_state.md` R24): five values, no other occurs. -/
inductive Phase where
  | idle
  | converting
  | staging
  | dispatched
  | emitting
  deriving DecidableEq, Repr

/-- The orchestrator's configuration, `CTRL.MODE` (R32): 0 offline validation, 1 live streaming. -/
inductive Mode where
  | offlineValidation
  | liveStreaming
  deriving DecidableEq, Repr

/-- The status codes a command can end with (`60_exceptions.md` R270); code 7 is never produced. -/
inductive Status where
  | ok
  | errIllegal
  | errBusy
  | errConfig
  | errOverrun
  | errBus
  | errNoJob
  deriving DecidableEq, Repr

/-- A slot index, 0 or 1 (R37). -/
abbrev Slot := Fin 2

/-- One entry of the per-channel configuration bank `CHCFG` (R41). -/
structure ChannelConfig where
  /-- `TAPS`, bits 15:0: the tap count the staging layer knows. -/
  taps : BitVec 16
  /-- `CONFIGURED`, bit 31: `CONFIGURE` has succeeded for the channel. -/
  configured : Bool
  deriving DecidableEq, Repr

/-- Data memory: (position, byte) pairs with rising positions, nothing listed that was never written. Word address `a`
has the positions `4 * a` to `4 * a + 3` (assumption log 3). -/
abbrev Memory := List Host.Cell

/-- A step of the agent `HOST` (`44_host_bus.md` R250). -/
inductive HostOp where
  /-- `RD(addr)`. -/
  | read (addr : Word)
  /-- `WR(addr, w)`. -/
  | write (addr w : Word)
  deriving DecidableEq, Repr

/-- A step of the agent `TRANSPORT` (`43_orchestrator.md` R212), contract-keeping or not (U4). -/
inductive TransportOp where
  /-- `TWR`: write a word of receive slot `slot`. -/
  | write (slot : Slot) (offset : BitVec 16) (w : Word)
  /-- `TRD`: read a word of transmit slot `slot`. -/
  | read (slot : Slot) (offset : BitVec 16)
  /-- `DELIVER(s, g)`, for unsigned integers of any size (R213). -/
  | deliver (s g : Nat)
  deriving DecidableEq, Repr

/-- Who moves next (`00_scope.md` R6), hardware reset included (`70_reset_and_hazards.md` R310). -/
inductive Turn where
  | host
  | transport
  | orch
  | accel
  | reset
  deriving DecidableEq, Repr

/-- An output event `EMIT(s)` with the contents of `TX[s]` at that moment (R215, `00_scope.md` R16). -/
structure Emission where
  slot : Slot
  block : List Word
  deriving DecidableEq, Repr

/-- The state (`10_state.md` R20), then what the model adds to it (assumption log 1, 6, 8, 10, 13). -/
structure State where
  /-- `ARG0` (R21). -/
  arg0 : Word
  /-- `ARG1` (R21). -/
  arg1 : Word
  /-- `ARG2` (R21). -/
  arg2 : Word
  /-- `ARG3` (R21). -/
  arg3 : Word
  /-- `STATUS` (R22). -/
  status : Status
  /-- `RES` (R22). -/
  res : Word
  /-- `PHASE` (R24). -/
  phase : Phase
  /-- `CP`, the address of the next descriptor (R25). -/
  cp : Word
  /-- `descLeft`, descriptors left in the lap (R25). -/
  descLeft : Nat
  /-- `lapsLeft`, laps left in the job (R25). -/
  lapsLeft : Word
  /-- `jobCI`, the job's completion-interrupt attribute (R25). -/
  jobCI : Bool
  /-- `jobAI`, the job's auto-iterate attribute (R25). -/
  jobAI : Bool
  /-- `FLAGS.blockReady` (R26). -/
  blockReady : Bool
  /-- `FLAGS.processingActive` (R27). -/
  processingActive : Bool
  /-- `FLAGS.filterDone` (R28). -/
  filterDone : Bool
  /-- `FLAGS.accelBusy` (R30). -/
  accelBusy : Bool
  /-- `FLAGS.cfgError`, sticky (R30). -/
  cfgError : Bool
  /-- `FLAGS.busFault`, sticky (R30). -/
  busFault : Bool
  /-- `FLAGS.protoFault`, sticky (R30). -/
  protoFault : Bool
  /-- `CTRL.RUN` (R32). -/
  run : Bool
  /-- `CTRL.MODE` (R32). -/
  mode : Mode
  /-- `NCH` (R33). -/
  nch : Word
  /-- `BSIZE` (R34). -/
  bsize : Word
  /-- `ITER` (R35). -/
  iter : Word
  /-- `FIR_HEAD` (R36). -/
  firHead : Word
  /-- `SLOT.rxSlot` (R37). -/
  rxSlot : Slot
  /-- `SLOT.curSlot` (R37). -/
  curSlot : Slot
  /-- `OVERRUN_COUNT` (R38). -/
  overrunCount : Word
  /-- `BLOCK_COUNT` (R39). -/
  blockCount : Word
  /-- `SAT_COUNT` (R40). -/
  satCount : Word
  /-- `CHCFG` (R41). -/
  chcfg : Vector ChannelConfig Config.maxCh
  /-- Data memory (R46). -/
  mem : Memory
  /-- A `WAITDONE` bus write is pending (R181; assumption log 8). -/
  waitHold : Bool
  /-- The transport's hidden bit (R54, R212; assumption log 10). -/
  fillSlot : Slot
  /-- Offsets of `RX[fillSlot]` written since the last delivery (R212; assumption log 10). -/
  filled : List (BitVec 16)
  /-- The parameter `FXW` (`00_scope.md` R9; assumption log 1); no step writes it. -/
  fxw : Config.FxWidth
  /-- The schedule: who moves next (assumption log 6). -/
  turns : List Turn
  /-- The host's next steps (assumption log 6, 7). -/
  hostOps : List HostOp
  /-- The transport's next steps (assumption log 6). -/
  transportOps : List TransportOp
  /-- Values returned by host bus reads, in order (`00_scope.md` R16 (a)). -/
  busReads : List Word
  /-- Words the transport read from transmit slots, in order (R16 (c)). -/
  drained : List Word
  /-- The output event stream, in order (R16 (b)). -/
  emits : List Emission
  deriving DecidableEq, Repr

/-- Why the machine stops with a fault. -/
inductive Fault where
  /-- Raised by the orchestrator's S2, S3 and S5 when the unit would touch an address outside the map, which the spec says
  no unit does (`20_memory.md` R76). Met only in states no run reaches (assumption log 11). Safe: the model stops where the
  spec gives no behaviour. -/
  | unmappedUnitAccess
  deriving DecidableEq, Repr

/-- Why there is no meaning for an instruction. -/
inductive Refusal where
  /-- Raised by `exec`'s arm of a command without a meaning. Safe: the model stops. No arm of this model raises it. -/
  | notModelled (mnemonic : String)
  deriving DecidableEq, Repr

/-- The outcome of a step or of a command. -/
abbrev Outcome := Host.Outcome State Fault Refusal

/-- The machine right after reset, at power-on (`10_state.md` R56): data memory lists nothing (R57), nobody has a pending
step, nothing has been observed. -/
def State.reset : State where
  arg0 := 0
  arg1 := 0
  arg2 := 0
  arg3 := 0
  status := .ok
  res := 0
  phase := .idle
  cp := 0
  descLeft := 0
  lapsLeft := 0
  jobCI := false
  jobAI := false
  blockReady := false
  processingActive := false
  filterDone := false
  accelBusy := false
  cfgError := false
  busFault := false
  protoFault := false
  run := false
  mode := .offlineValidation
  nch := 0
  bsize := 0
  iter := 1
  firHead := 0x08000000
  rxSlot := 0
  curSlot := 0
  overrunCount := 0
  blockCount := 0
  satCount := 0
  chcfg := Vector.replicate Config.maxCh ⟨0, false⟩
  mem := []
  waitHold := false
  fillSlot := 0
  filled := []
  fxw := Config.defaultFxWidth
  turns := []
  hostOps := []
  transportOps := []
  busReads := []
  drained := []
  emits := []

end Sys2Proof.Machine
end

