-- ==== Sys2Proof/Machine/Flags.lean ====
section
/-! DEFINITION. Flags, counters and the words software reads them as (`10_state.md` R22, R24, R31, R32, R37 to R41). -/

namespace Sys2Proof.Machine

/-- `sat_inc` (`00_scope.md` R11): a counter stops at `2^32 - 1`. -/
def satInc (c : Word) : Word := if c = 0xFFFFFFFF then c else c + 1

/-- The number of a phase (R24). -/
def Phase.code : Phase → Word
  | .idle => 0
  | .converting => 1
  | .staging => 2
  | .dispatched => 3
  | .emitting => 4

/-- The bit of a configuration (R32). -/
def Mode.bit : Mode → Bool
  | .offlineValidation => false
  | .liveStreaming => true

/-- The configuration a bit selects (R32). -/
def Mode.ofBit (b : Bool) : Mode := if b then .liveStreaming else .offlineValidation

/-- The number of a status code (`60_exceptions.md` R270). -/
def Status.code : Status → Word
  | .ok => 0
  | .errIllegal => 1
  | .errBusy => 2
  | .errConfig => 3
  | .errOverrun => 4
  | .errBus => 5
  | .errNoJob => 6

/-- A word with one Boolean at bit `k` and zeros elsewhere. -/
def bitAt (b : Bool) (k : Nat) : Word := if b then BitVec.ofNat 32 (2 ^ k) else 0

/-- The register `FLAGS` (R31). -/
def State.flagsWord (s : State) : Word :=
  bitAt s.blockReady 0 ||| bitAt s.processingActive 1 ||| bitAt s.filterDone 2 ||| bitAt s.accelBusy 3
    ||| bitAt s.cfgError 4 ||| bitAt s.busFault 5 ||| bitAt s.protoFault 6

/-- The register `CTRL` (R32). -/
def State.ctrlWord (s : State) : Word := bitAt s.run 0 ||| bitAt s.mode.bit 1

/-- The register `SLOT` (R37). -/
def State.slotWord (s : State) : Word := bitAt (s.rxSlot = 1) 0 ||| bitAt (s.curSlot = 1) 1

/-- A register of the bank `CHCFG` (R41). -/
def ChannelConfig.word (c : ChannelConfig) : Word := c.taps.setWidth 32 ||| bitAt c.configured 31

/-- The write gate (R44): open when the pipeline is stopped and no job is in flight. -/
def State.gateOpen (s : State) : Bool := !s.run && !s.accelBusy

/-- The output level `transportEnable` (`43_orchestrator.md` R216). -/
def State.transportEnable (s : State) : Bool := s.run && s.mode.bit

end Sys2Proof.Machine
end

