-- ==== Sys2Proof/Machine/Ops.lean ====
section
/-! DEFINITION. The named operations the meanings are written in: loops, data memory, the address map, the channel bank,
the end of a command (this hardware's counterpart of taking an exception) and the completion interrupt. -/

namespace Sys2Proof.Machine

/-! ## Loops -/

/-- Whether `p` holds for every `i < n`. -/
def allBelow : Nat → (Nat → Bool) → Bool
  | 0, _ => true
  | n + 1, p => p n && allBelow n p

/-- `f 0`, then `f 1`, up to `f (n - 1)`: the ascending loop of the unit functions (`40_conversion.md` R137). -/
def iterUp {α : Type} : Nat → (Nat → α → α) → α → α
  | 0, _, a => a
  | n + 1, f, a => f n (iterUp n f a)

/-! ## Data memory -/

/-- What the list says of one position: the byte written there, or nothing. -/
def Memory.byteAt : Memory → Nat → Option Byte
  | [], _ => none
  | (k', b) :: rest, k => if k' = k then some b else Memory.byteAt rest k

/-- Store a byte, keeping the positions rising. -/
def Memory.setByte : Memory → Nat → Byte → Memory
  | [], k, b => [(k, b)]
  | (k', b') :: rest, k, b =>
    if k < k' then (k, b) :: (k', b') :: rest
    else if k = k' then (k, b) :: rest
    else (k', b') :: Memory.setByte rest k b

/-- What a byte reads as: what was written there, or, where nothing was, the free value of U2 (assumption log 4). -/
def Memory.readByte (m : Memory) (k : Nat) : Byte := (m.byteAt k).getD (Config.powerOnByte k)

/-- `MemRead(addr, 1)` (`00_scope.md` R12). The layout of the four bytes is internal (assumption log 3). -/
def Memory.readWord (m : Memory) (a : Word) : Word :=
  m.readByte (4 * a.toNat + 3) ++ m.readByte (4 * a.toNat + 2) ++ m.readByte (4 * a.toNat + 1) ++ m.readByte (4 * a.toNat)

/-- `MemWrite(addr, 1, v)` (R12). -/
def Memory.writeWord (m : Memory) (a v : Word) : Memory :=
  (((m.setByte (4 * a.toNat) (v.extractLsb' 0 8)).setByte (4 * a.toNat + 1) (v.extractLsb' 8 8)).setByte
    (4 * a.toNat + 2) (v.extractLsb' 16 8)).setByte (4 * a.toNat + 3) (v.extractLsb' 24 8)

/-- The canonical form: positions strictly rising (a listed byte never equals what an unlisted one reads as, because an
unlisted byte has no value of its own). -/
def Memory.wf : Memory → Bool
  | [] => true
  | [_] => true
  | (k, _) :: (k', b') :: rest => decide (k < k') && Memory.wf ((k', b') :: rest)

/-- A word of data memory. -/
def State.word (s : State) (a : Word) : Word := s.mem.readWord a

/-! ## The address map (`20_memory.md` R70, R71, R77) -/

/-- The data-memory regions (R71). -/
inductive Region where
  | rx
  | tx
  | csb
  | win
  | hist
  | out
  | coef
  | desc
  deriving DecidableEq, Repr

/-- The `REGION` field (R71). -/
def Region.code : Region → Nat
  | .rx => 0x01
  | .tx => 0x02
  | .csb => 0x03
  | .win => 0x04
  | .hist => 0x05
  | .out => 0x06
  | .coef => 0x07
  | .desc => 0x08

/-- How many units a region has (R71). -/
def Region.units : Region → Nat
  | .rx => 2
  | .tx => 2
  | .csb => Config.maxCh
  | .win => Config.maxCh
  | .hist => Config.maxCh
  | .out => Config.maxCh
  | .coef => Config.maxCh
  | .desc => Config.maxCh

/-- The capacity of a unit's buffer in words (R71). -/
def Region.capacity : Region → Nat
  | .rx => 65536
  | .tx => 65536
  | .csb => Config.maxB
  | .win => Config.maxB + Config.maxTaps - 1
  | .hist => Config.maxTaps - 1
  | .out => Config.maxB
  | .coef => Config.maxTaps
  | .desc => 9

/-- The data-memory region of a `REGION` field (R71). -/
def Region.ofCode (n : Nat) : Option Region :=
  match n with
  | 0x01 => some .rx
  | 0x02 => some .tx
  | 0x03 => some .csb
  | 0x04 => some .win
  | 0x05 => some .hist
  | 0x06 => some .out
  | 0x07 => some .coef
  | 0x08 => some .desc
  | _ => none

/-- The address of offset 0 of a unit's buffer: the constructors of R77. -/
def Region.base (r : Region) (unit : Nat) : Word := BitVec.ofNat 32 (r.code * 0x1000000 + unit * 0x10000)

/-- `REGION = addr[31:24]` (R70). -/
def addrRegion (a : Word) : Nat := (a.extractLsb' 24 8).toNat

/-- `UNIT = addr[23:16]` (R70). -/
def addrUnit (a : Word) : Nat := (a.extractLsb' 16 8).toNat

/-- `OFFSET = addr[15:0]` (R70). -/
def addrOffset (a : Word) : Nat := (a.extractLsb' 0 16).toNat

/-- `Mapped(addr)` (R71): a legal data-memory address. -/
def mapped (a : Word) : Bool :=
  match Region.ofCode (addrRegion a) with
  | none => false
  | some r => decide (addrUnit a < r.units) && decide (addrOffset a < r.capacity)

/-- Whether `n` consecutive addresses from `a` are all mapped. -/
def mappedRange (a : Word) (n : Nat) : Bool := allBelow n fun i => mapped (a + BitVec.ofNat 32 i)

/-! ## Registers on the bus (`10_state.md` R42) -/

/-- The registers of the map. -/
inductive Reg where
  | ctrl
  | flags
  | phase
  | nch
  | bsize
  | iter
  | firHead
  | slot
  | overrunCount
  | blockCount
  | satCount
  | status
  | res
  | cmd
  | arg0
  | arg1
  | arg2
  | arg3
  | chcfg (c : Nat)
  deriving DecidableEq, Repr

/-- The register of a number (R42). -/
def Reg.ofNumber (n : Nat) : Option Reg :=
  match n with
  | 0x00 => some .ctrl
  | 0x01 => some .flags
  | 0x02 => some .phase
  | 0x03 => some .nch
  | 0x04 => some .bsize
  | 0x05 => some .iter
  | 0x06 => some .firHead
  | 0x07 => some .slot
  | 0x08 => some .overrunCount
  | 0x09 => some .blockCount
  | 0x0A => some .satCount
  | 0x0B => some .status
  | 0x0C => some .res
  | 0x0D => some .cmd
  | 0x10 => some .arg0
  | 0x11 => some .arg1
  | 0x12 => some .arg2
  | 0x13 => some .arg3
  | n => if 0x20 ≤ n ∧ n < 0x20 + Config.maxCh then some (.chcfg (n - 0x20)) else none

/-- The register an address names; `RegMapped(addr)` (R71) is that there is one. -/
def regAt (a : Word) : Option Reg :=
  if addrRegion a = 0xFF ∧ addrUnit a = 0 then Reg.ofNumber (addrOffset a) else none

/-- `RegAddr(n)` (R77). -/
def regAddr (n : Nat) : Word := BitVec.ofNat 32 (0xFF000000 + n)

/-! ## The channel bank (R41) -/

/-- `CHCFG[c]`; a channel outside the bank has no configuration. -/
def State.chan (s : State) (c : Nat) : ChannelConfig := s.chcfg.getD c ⟨0, false⟩

/-- `CHCFG[c].TAPS <- taps ; CHCFG[c].CONFIGURED <- 1`, as `CONFIGURE` writes it (`42_fir_engine.md` R167). -/
def State.setChan (s : State) (c : Nat) (taps : BitVec 16) : State :=
  { s with chcfg := s.chcfg.setIfInBounds c ⟨taps, true⟩ }

/-! ## The end of a command (`60_exceptions.md` R271) -/

/-- `raise Status(code)` (R271): the status, `RES = 0` and the side effect tied to the code (R270). The increment that goes
with `ERR_OVERRUN` is made by `Dispatch()`, the single place that counts it (`90_conflicts.md` C8; assumption log 9). No
state is saved and no control is transferred, and there is no return (R285, R286). -/
def State.raiseStatus (s : State) (code : Status) : State :=
  match code with
  | .errConfig => { s with status := .errConfig, res := 0, cfgError := true }
  | .errBus => { s with status := .errBus, res := 0, busFault := true }
  | code => { s with status := code, res := 0 }

/-- A command that ends normally (`00_scope.md` R13): `STATUS <- OK`, `RES <-` its result. -/
def State.complete (s : State) (result : Word) : State := { s with status := .ok, res := result }

/-! ## The interrupts' effect (`60_exceptions.md` R282) -/

/-- `ONCOMPLETE`, the accelerator completion interrupt (`42_fir_engine.md` R179): its whole effect. -/
def State.onComplete (s : State) : State := { s with filterDone := true }

/-- The transport completion interrupt `DELIVER(s, g)` (`43_orchestrator.md` R213), the block's side of it. -/
def State.deliver (s : State) (slot group : Nat) : State :=
  if s.transportEnable = false then s
  else if group ≠ 0 ∨ ¬ slot < 2 then { s with protoFault := true }
  else
    { s with
      overrunCount := if s.blockReady || s.processingActive then satInc s.overrunCount else s.overrunCount
      blockCount := satInc s.blockCount
      rxSlot := Fin.ofNat 2 slot
      blockReady := true }

/-! ## Hardware reset (`70_reset_and_hazards.md` R310) -/

/-- Hardware reset: every register and hidden element at its reset value, data memory untouched (R57). What is outside the
block keeps its value (assumption log 12). -/
def State.hardwareReset (s : State) : State :=
  { State.reset with
    mem := s.mem
    fillSlot := s.fillSlot
    filled := s.filled
    fxw := s.fxw
    turns := s.turns
    hostOps := s.hostOps
    transportOps := s.transportOps
    busReads := s.busReads
    drained := s.drained }

end Sys2Proof.Machine
end

