-- ==== Sys2Proof/Machine/Operands.lean ====
section
/-! DEFINITION. Operand forms: the addressing forms of `44_host_bus.md` R258, the geometry registers as counts, and the
job descriptor (`30_encoding.md` R104, R105). -/

namespace Sys2Proof.Machine

/-- Unit stride, `base + i`, modulo `2^32` (R257, R258 (a)). -/
def unitStride (base : Word) (i : Nat) : Word := base + BitVec.ofNat 32 i

/-- Channel stride, `base + i * stride`, modulo `2^32` (R257, R258 (b)). -/
def channelStride (base stride : Word) (i : Nat) : Word := base + BitVec.ofNat 32 i * stride

/-- Reversed coefficient addressing, `COEF_INDEX - j` (R258 (c)). -/
def reversedCoef (index : Word) (j : Nat) : Word := index - BitVec.ofNat 32 j

/-- Circular window addressing, `IN_BASE + (i mod IN_LEN)` (R258 (d), `42_fir_engine.md` R170). -/
def circularWindow (base len : Word) (i : Nat) : Word := base + BitVec.ofNat 32 (i % len.toNat)

/-- `1 <= v <= bound`, on the full unsigned word (R257 (c)). -/
def inRange (v : Word) (bound : Nat) : Bool := decide (1 ≤ v.toNat) && decide (v.toNat ≤ bound)

/-- `1 <= NCH <= MAX_CH` (`10_state.md` R33). -/
def State.nchLegal (s : State) : Bool := inRange s.nch Config.maxCh

/-- `1 <= BSIZE <= MAX_B` (`10_state.md` R34). -/
def State.bsizeLegal (s : State) : Bool := inRange s.bsize Config.maxB

/-- `H = T - 1`, the history length of a channel, from that channel's own tap count (`41_history_stager.md` R150). -/
def State.histLen (s : State) (c : Nat) : Nat := (s.chan c).taps.toNat - 1

/-- `clog2(n)`, the least `e` with `2^e >= n` (`00_scope.md` R10). -/
def clog2 (n : Nat) : Nat := if n ≤ 1 then 0 else (n - 1).log2 + 1

/-- A Filter Job Descriptor, by the names of R104. -/
structure JobDescriptor where
  next : Word
  coefBase : Word
  coefLen : Word
  coefIndex : Word
  inBase : Word
  inLen : Word
  outBase : Word
  outLen : Word
  ctrl : Word
  deriving DecidableEq, Repr

/-- The nine words of a descriptor, in the order of R104. -/
def JobDescriptor.words (d : JobDescriptor) : List Word :=
  [d.next, d.coefBase, d.coefLen, d.coefIndex, d.inBase, d.inLen, d.outBase, d.outLen, d.ctrl]

/-- The descriptor at an address, as it is in memory now (`20_memory.md` R85). -/
def Memory.descriptor (m : Memory) (d : Word) : JobDescriptor where
  next := m.readWord d
  coefBase := m.readWord (d + 1)
  coefLen := m.readWord (d + 2)
  coefIndex := m.readWord (d + 3)
  inBase := m.readWord (d + 4)
  inLen := m.readWord (d + 5)
  outBase := m.readWord (d + 6)
  outLen := m.readWord (d + 7)
  ctrl := m.readWord (d + 8)

/-- `CI`, bit 31 of the control word (R105). -/
def JobDescriptor.ci (d : JobDescriptor) : Bool := d.ctrl.getLsbD 31

/-- `AI`, bit 30 (R105). -/
def JobDescriptor.ai (d : JobDescriptor) : Bool := d.ctrl.getLsbD 30

/-- The reserved bits 29:21 (R105). -/
def JobDescriptor.reserved (d : JobDescriptor) : BitVec 9 := d.ctrl.extractLsb' 21 9

/-- `WEXP`, bits 20:16 (R105, R106). -/
def JobDescriptor.wexp (d : JobDescriptor) : Nat := (d.ctrl.extractLsb' 16 5).toNat

/-- `TAPS`, bits 15:0 (R105). -/
def JobDescriptor.taps (d : JobDescriptor) : Nat := (d.ctrl.extractLsb' 0 16).toNat

/-- A control word from its fields, with the reserved bits 0 (R105). -/
def controlWord (ci ai : Bool) (wexp taps : Nat) : Word :=
  BitVec.ofBool ci ++ BitVec.ofBool ai ++ 0#9 ++ BitVec.ofNat 5 wexp ++ BitVec.ofNat 16 taps

end Sys2Proof.Machine
end

