-- ==== Sys2Proof/Machine/Float.lean ====
section
/-! DEFINITION. The binary32 operations of `00_scope.md` R14 and the sample conversions of `40_conversion.md`. A finite
binary32 word is `± m * 2^(e - 149)` with `m < 2^24`; results are computed exactly on natural numbers and rounded once. -/

namespace Sys2Proof.Machine

/-- `num / den` rounded to the nearest natural number, ties to even: `round_half_even` on magnitudes (R15). -/
def rneDiv (num den : Nat) : Nat :=
  let q := num / den
  let r := num % den
  if den < 2 * r ∨ (2 * r = den ∧ q % 2 = 1) then q + 1 else q

/-- `round_half_even` of the rational `z / den` (R15): the rule is symmetric in the sign. -/
def roundHalfEven (z : Int) (den : Nat) : Int :=
  if z < 0 then - (rneDiv z.natAbs den : Int) else (rneDiv z.natAbs den : Int)

/-- The sign bit. -/
def f32Sign (a : Word) : Bool := a.getLsbD 31

/-- The exponent field. -/
def f32Exp (a : Word) : Nat := (a.extractLsb' 23 8).toNat

/-- The fraction field. -/
def f32Frac (a : Word) : Nat := (a.extractLsb' 0 23).toNat

/-- A NaN, quiet or signalling. -/
def f32IsNaN (a : Word) : Bool := f32Exp a == 255 && f32Frac a != 0

/-- An infinity of either sign. -/
def f32IsInf (a : Word) : Bool := f32Exp a == 255 && f32Frac a == 0

/-- A zero of either sign. -/
def f32IsZero (a : Word) : Bool := f32Exp a == 0 && f32Frac a == 0

/-- Neither a NaN nor an infinity. -/
def f32IsFinite (a : Word) : Bool := f32Exp a != 255

/-- The magnitude of a finite word in units of `2^-149`, subnormals included (R14, no flush to zero). -/
def f32Mag (a : Word) : Nat :=
  if f32Exp a = 0 then f32Frac a else (2 ^ 23 + f32Frac a) * 2 ^ (f32Exp a - 1)

/-- `real(a)` of a finite word (R14), in units of `2^-149`. -/
def f32Units (a : Word) : Int := if f32Sign a then - (f32Mag a : Int) else (f32Mag a : Int)

/-- The word of a sign and 31 bits of magnitude. -/
def f32Pack (sign : Bool) (bits : Nat) : Word := BitVec.ofBool sign ++ BitVec.ofNat 31 bits

/-- The infinity of a sign. -/
def f32Inf (sign : Bool) : Word := f32Pack sign 0x7F800000

/-- A quiet NaN whose sign and payload are drawn from a free value (R14, U1; assumption log 5). -/
def f32NaN (draw : Word) : Word := draw ||| 0x7FC00000

/-- The 31 low bits of the binary32 value nearest to `n * 2^(-149 - k)`, ties to even (R14): at least `k` bits are dropped
(nothing is finer than a subnormal step), and as many as leave 24 significant bits. A magnitude that rounds past the
largest finite value becomes the infinity. -/
def f32RoundBits (n k : Nat) : Nat :=
  let drop := max k (n.log2 + 1 - 24)
  let bits := (drop - k) * 2 ^ 23 + rneDiv n (2 ^ drop)
  if 0x7F800000 ≤ bits then 0x7F800000 else bits

/-- The binary32 value nearest to `± n * 2^(-149 - k)`. -/
def f32Round (sign : Bool) (n k : Nat) : Word := f32Pack sign (f32RoundBits n k)

/-- `f32_mul` (R14). -/
def f32Mul (a b : Word) : Word :=
  let sign := f32Sign a ^^ f32Sign b
  if f32IsNaN a || f32IsNaN b then f32NaN (Config.nanProduct a b)
  else if (f32IsInf a && f32IsZero b) || (f32IsZero a && f32IsInf b) then f32NaN (Config.nanProduct a b)
  else if f32IsInf a || f32IsInf b then f32Inf sign
  else f32Round sign (f32Mag a * f32Mag b) 149

/-- `f32_add` (R14): an exact zero sum is `+0.0` unless both operands are `-0.0`. -/
def f32Add (a b : Word) : Word :=
  if f32IsNaN a || f32IsNaN b then f32NaN (Config.nanSum a b)
  else if f32IsInf a && f32IsInf b then
    if f32Sign a = f32Sign b then a else f32NaN (Config.nanSum a b)
  else if f32IsInf a then a
  else if f32IsInf b then b
  else
    let z := f32Units a + f32Units b
    if z = 0 then f32Pack (f32Sign a && f32Sign b) 0
    else f32Round (decide (z < 0)) z.natAbs 0

/-- `f32_of_int_scaled(z, s)` for `s <= 149` (R14); the result of 0 is `+0.0`. -/
def f32OfIntScaled (z : Int) (s : Nat) : Word := f32Round (decide (z < 0)) (z.natAbs * 2 ^ (149 - s)) 0

/-! ## Samples (`40_conversion.md`) -/

/-- `sext_FXW(w)` (R10): the low `FXW` bits as a two's-complement integer. -/
def sextSample (fxw : Nat) (w : Word) : Int := (w.setWidth fxw).toInt

/-- `FX_MAX` (R15). -/
def fxMax (fxw : Nat) : Int := 2 ^ (fxw - 1) - 1

/-- `FX_MIN` (R15). -/
def fxMin (fxw : Nat) : Int := - 2 ^ (fxw - 1)

/-- `FloatOf(w)` (R131). -/
def floatOf (fxw : Nat) (w : Word) : Word := f32OfIntScaled (sextSample fxw w) (fxw - 1)

/-- `to_word` of a value clamped to the sample range, and whether it was clamped (R133). -/
def clampSample (fxw : Nat) (r : Int) : Word × Bool :=
  if fxMax fxw < r then (BitVec.ofInt 32 (fxMax fxw), true)
  else if r < fxMin fxw then (BitVec.ofInt 32 (fxMin fxw), true)
  else (BitVec.ofInt 32 r, false)

/-- `FixOf(f)` (R133): the sample word, and whether it saturated. -/
def fixOf (fxw : Nat) (f : Word) : Word × Bool :=
  if f32IsNaN f then (0, true)
  else if f32IsInf f then
    if f32Sign f then (BitVec.ofInt 32 (fxMin fxw), true) else (BitVec.ofInt 32 (fxMax fxw), true)
  else clampSample fxw (roundHalfEven (f32Units f * 2 ^ (fxw - 1)) (2 ^ 149))

end Sys2Proof.Machine
end

