-- ==== Sys2Proof/Machine/Control.lean ====
section
/-! DEFINITION. `NOP` (`44_host_bus.md` R254). -/

namespace Sys2Proof.Machine

/-- `NOP` (R254): accepted in every state; its only effect is on `STATUS` and `RES`. -/
def execNop (s : State) : Outcome := .next (s.complete 0)

end Sys2Proof.Machine
end

