-- ==== Sys2Proof/Machine/Converter.lean ====
section
/-! DEFINITION. The format converter: `TOFLOAT` and `TOFIXED` (`40_conversion.md`). -/

namespace Sys2Proof.Machine

/-- The unit function `ToFloat(dst, src, stride, len)` (R132): ascending samples, each read and written before the next is
read (R137). -/
def convertToFloat (fxw : Nat) (dst src stride : Word) (len : Nat) (m : Memory) : Memory :=
  iterUp len (fun i m => m.writeWord (unitStride dst i) (floatOf fxw (m.readWord (channelStride src stride i)))) m

/-- One sample of `ToFixed`: the word, and the count of saturated samples (R134, R135). -/
def convertSample (fxw : Nat) (dst src : Word) (p : Memory × Word) : Memory × Word :=
  let q := fixOf fxw (p.1.readWord src)
  (p.1.writeWord dst q.1, if q.2 then satInc p.2 else p.2)

/-- The unit function `ToFixed(dst, src, stride, len)` (R134) on memory and `SAT_COUNT`. -/
def convertToFixed (fxw : Nat) (dst src stride : Word) (len : Nat) (p : Memory × Word) : Memory × Word :=
  iterUp len (fun i p => convertSample fxw (channelStride dst stride i) (unitStride src i) p) p

/-- Every address `ToFloat` touches is mapped (R132). -/
def toFloatMapped (dst src stride : Word) (len : Nat) : Bool :=
  allBelow len fun i => mapped (channelStride src stride i) && mapped (unitStride dst i)

/-- Every address `ToFixed` touches is mapped (R134). -/
def toFixedMapped (dst src stride : Word) (len : Nat) : Bool :=
  allBelow len fun i => mapped (channelStride dst stride i) && mapped (unitStride src i)

/-- `TOFLOAT` (R132). -/
def execTofloat (s : State) : Outcome :=
  if s.run then .next (s.raiseStatus .errBusy)
  else if toFloatMapped s.arg0 s.arg1 s.arg2 s.arg3.toNat then
    .next (State.complete { s with mem := convertToFloat s.fxw.val s.arg0 s.arg1 s.arg2 s.arg3.toNat s.mem } 0)
  else .next (s.raiseStatus .errBus)

/-- `TOFIXED` (R134). -/
def execTofixed (s : State) : Outcome :=
  if s.run then .next (s.raiseStatus .errBusy)
  else if toFixedMapped s.arg0 s.arg1 s.arg2 s.arg3.toNat then
    let p := convertToFixed s.fxw.val s.arg0 s.arg1 s.arg2 s.arg3.toNat (s.mem, s.satCount)
    .next (State.complete { s with mem := p.1, satCount := p.2 } 0)
  else .next (s.raiseStatus .errBus)

end Sys2Proof.Machine
end

