-- ==== Sys2Proof/Machine/Engine.lean ====
section
/-! DEFINITION. The FIR engine: `CONFIGURE`, `DISPATCH`, `ISDONE`, `WAITDONE` and the accelerator step X1
(`42_fir_engine.md`). -/

namespace Sys2Proof.Machine

/-! ## CONFIGURE (R166, R167) -/

/-- Write consecutive words. -/
def writeWords (m : Memory) (a : Word) : List Word → Memory
  | [] => m
  | w :: ws => writeWords (m.writeWord a w) (a + 1) ws

/-- Write `n` zero words: the history becomes `+0.0` (R167). -/
def zeroWords (a : Word) (n : Nat) (m : Memory) : Memory :=
  iterUp n (fun i m => m.writeWord (unitStride a i) 0) m

/-- The descriptor `CONFIGURE c` builds (R167): linked by the present `NCH`, `CI` always 1, `AI` as `CTRL.MODE` says. -/
def State.builtDescriptor (s : State) (c : Nat) (coef taps bs : Word) : JobDescriptor where
  next := Region.desc.base ((c + 1) % s.nch.toNat)
  coefBase := coef
  coefLen := taps
  coefIndex := coef + taps - 1
  inBase := Region.win.base c
  inLen := bs + taps - 1
  outBase := Region.out.base c
  outLen := bs
  ctrl := controlWord true (!s.mode.bit) (clog2 bs.toNat) taps.toNat

/-- The operand check of `CONFIGURE` (R166). -/
def State.configureLegal (s : State) (c : Nat) : Bool :=
  s.nchLegal && decide (c < s.nch.toNat) && inRange s.arg1 Config.maxTaps && inRange s.arg2 Config.maxB

/-- `CONFIGURE c` (R166, R167). -/
def execConfigure (c : Nat) (s : State) : Outcome :=
  if s.run || s.accelBusy then .next (s.raiseStatus .errBusy)
  else if !s.configureLegal c then .next (s.raiseStatus .errConfig)
  else if !mappedRange s.arg0 s.arg1.toNat then .next (s.raiseStatus .errBus)
  else
    let d := s.builtDescriptor c s.arg0 s.arg1 s.arg2
    let m := zeroWords (Region.hist.base c) (s.arg1.toNat - 1) (writeWords s.mem (Region.desc.base c) d.words)
    .next (State.complete { s.setChan c (s.arg1.setWidth 16) with mem := m } 0)

/-! ## The convolution (R169) -/

/-- `FirDot(d, n)` (R169): separate roundings, ascending window index, descending coefficient address. -/
def firDot (m : Memory) (d : JobDescriptor) (n : Nat) : Word :=
  iterUp d.taps
    (fun j acc =>
      f32Add acc (f32Mul (m.readWord (reversedCoef d.coefIndex j)) (m.readWord (circularWindow d.inBase d.inLen (n + j)))))
    0

/-! ## Validity (R172, R173) -/

/-- Two non-empty runs of consecutive addresses (modulo `2^32`) have no address in common. -/
def runsDisjoint (a : Word) (n : Nat) (b : Word) (k : Nat) : Bool :=
  decide (n ≤ (b - a).toNat) && decide (k ≤ (a - b).toNat)

/-- V2 to V8 of `DescValid` (R172). -/
def JobDescriptor.fieldsValid (d : JobDescriptor) : Bool :=
  decide (d.reserved = 0)
    && (decide (1 ≤ d.taps) && decide (d.taps ≤ Config.maxTaps))
    && decide (d.coefLen.toNat = d.taps)
    && decide (d.coefIndex = d.coefBase + BitVec.ofNat 32 d.taps - 1)
    && inRange d.outLen Config.maxB
    && decide (d.inLen.toNat = d.outLen.toNat + d.taps - 1)
    && decide (d.wexp = clog2 d.outLen.toNat)

/-- V9 to V11 of `DescValid` (R172), for the descriptor at address `a`. -/
def JobDescriptor.rangesValid (d : JobDescriptor) (a : Word) : Bool :=
  mappedRange d.coefBase d.taps && mappedRange d.inBase d.inLen.toNat && mappedRange d.outBase d.outLen.toNat
    && runsDisjoint d.outBase d.outLen.toNat d.inBase d.inLen.toNat
    && runsDisjoint d.outBase d.outLen.toNat d.coefBase d.taps
    && runsDisjoint d.outBase d.outLen.toNat a 9

/-- `DescValid(d)` (R172): V1, then the fields, then the ranges. -/
def descValid (m : Memory) (a : Word) : Bool :=
  (decide (a ≠ 0) && mappedRange a 9) && ((m.descriptor a).fieldsValid && (m.descriptor a).rangesValid a)

/-- `d_i` of the walk from a head address (R173, C2). -/
def chainAddr (m : Memory) (h : Word) : Nat → Word
  | 0 => h
  | i + 1 => m.readWord (chainAddr m h i)

/-- `d_0 .. d_(n-1)` of the walk (R173, C2). -/
def chainAddrs (m : Memory) (h : Word) : Nat → List Word
  | 0 => []
  | n + 1 => h :: chainAddrs m (m.readWord h) n

/-- `ChainValid(h)` (R173, C1 to C6). -/
def State.chainValid (s : State) (h : Word) : Bool :=
  s.nchLegal
    && (chainAddrs s.mem h s.nch.toNat).all (descValid s.mem)
    && (chainAddrs s.mem h s.nch.toNat).all (fun d =>
        (s.mem.descriptor d).ai == (s.mem.descriptor h).ai && (s.mem.descriptor d).ci == (s.mem.descriptor h).ci)
    && (decide (chainAddr s.mem h s.nch.toNat = h)
        || (decide (chainAddr s.mem h s.nch.toNat = 0) && !(s.mem.descriptor h).ai))
    && (!(s.mem.descriptor h).ai || decide (1 ≤ s.iter.toNat))
    && decide (chainAddrs s.mem h s.nch.toNat).Nodup

/-! ## DISPATCH (R174 to R177) -/

/-- `Dispatch()`: overrun (R175), arming (R176) or configuration failure (R177). -/
def State.dispatchJob (s : State) : Status × State :=
  if s.accelBusy || s.filterDone then (.errOverrun, { s with overrunCount := satInc s.overrunCount })
  else if s.chainValid s.firHead then
    (.ok,
      { s with
        jobCI := (s.mem.descriptor s.firHead).ci
        jobAI := (s.mem.descriptor s.firHead).ai
        cp := s.firHead
        descLeft := s.nch.toNat
        lapsLeft := if (s.mem.descriptor s.firHead).ai then s.iter else 1
        accelBusy := true })
  else (.errConfig, { s with cfgError := true })

/-- `DISPATCH` (R174). -/
def execDispatch (s : State) : Outcome :=
  if s.run then .next (s.raiseStatus .errBusy)
  else
    match s.dispatchJob with
    | (.ok, t) => .next (t.complete 0)
    | (r, t) => .next (t.raiseStatus r)

/-! ## ISDONE and WAITDONE (R180, R181) -/

/-- `ISDONE` (R180): test and clear in one action. -/
def execIsdone (s : State) : Outcome :=
  if s.run then .next (s.raiseStatus .errBusy)
  else if s.filterDone then .next (State.complete { s with filterDone := false } 1)
  else .next (s.complete 0)

/-- The condition that lifts the hold of `WAITDONE` (R181). -/
def State.holdLifted (s : State) : Bool := s.filterDone || !s.accelBusy

/-- The end of `WAITDONE` once the hold is lifted (R181): the completion is observed, or the job has aborted. -/
def State.finishWait (s : State) : State :=
  if s.filterDone then State.complete { s with filterDone := false, waitHold := false } 1
  else State.raiseStatus { s with waitHold := false } .errNoJob

/-- `WAITDONE` (R181): ends at once when its hold is lifted; else the bus write stays pending (assumption log 8). -/
def execWaitdone (s : State) : Outcome :=
  if s.run then .next (s.raiseStatus .errBusy)
  else if !s.filterDone && !(s.accelBusy && s.jobCI) then .next (s.raiseStatus .errNoJob)
  else if s.holdLifted then .next s.finishWait
  else .next { s with waitHold := true }

/-! ## The accelerator step (R190, R191) -/

/-- The outputs of one descriptor, all computed from the memory at the start of the step (R190). -/
def writeOutputs (m : Memory) (d : JobDescriptor) : Memory :=
  iterUp d.outLen.toNat (fun n m' => m'.writeWord (unitStride d.outBase n) (firDot m d n)) m

/-- What follows the outputs in X1 (R190): the next descriptor, the next lap, or the end of the job. -/
def State.advanceJob (s : State) (next : Word) : State :=
  if 0 < s.descLeft - 1 then { s with descLeft := s.descLeft - 1, cp := next }
  else if 0 < (s.lapsLeft - 1).toNat then
    { s with lapsLeft := s.lapsLeft - 1, cp := s.firHead, descLeft := s.nch.toNat }
  else
    let t := { s with descLeft := 0, lapsLeft := 0, accelBusy := false }
    if s.jobCI then t.onComplete else t

/-- X1 with its abort (R190, R191), for a busy accelerator. -/
def State.stepX1 (s : State) : State :=
  if descValid s.mem s.cp then
    State.advanceJob { s with mem := writeOutputs s.mem (s.mem.descriptor s.cp) } (s.mem.readWord s.cp)
  else { s with cfgError := true, accelBusy := false }

end Sys2Proof.Machine
end

