-- ==== Sys2Proof/Machine/Stager.lean ====
section
/-! DEFINITION. The history stager: `STAGE` and `CAPTURE` (`41_history_stager.md`). -/

namespace Sys2Proof.Machine

/-- Copy `n` words unchanged, ascending (R150). -/
def copyWords (dst src : Word) (n : Nat) (m : Memory) : Memory :=
  iterUp n (fun i m => m.writeWord (unitStride dst i) (m.readWord (unitStride src i))) m

/-- The unit function `Stage(c)` (R151) for history length `h` and block size `b`: the history prefix, then the new block. -/
def stageWords (c h b : Nat) (m : Memory) : Memory :=
  copyWords (unitStride (Region.win.base c) h) (Region.csb.base c) b
    (copyWords (Region.win.base c) (Region.hist.base c) h m)

/-- The unit function `Capture(c)` (R153): the last `h` words of the window (R152). -/
def captureWords (c h b : Nat) (m : Memory) : Memory :=
  copyWords (Region.hist.base c) (unitStride (Region.win.base c) b) h m

/-- Every address `Stage(c)` and `Capture(c)` touch is mapped (`20_memory.md` R76). -/
def stagerMapped (c h b : Nat) : Bool :=
  mappedRange (Region.hist.base c) h && mappedRange (Region.win.base c) (h + b) && mappedRange (Region.csb.base c) b

/-- The configuration check of `STAGE` and `CAPTURE` (R151, R153). -/
def State.stagerConfigured (s : State) (c : Nat) : Bool :=
  decide (c < Config.maxCh) && (s.chan c).configured && s.bsizeLegal

/-- `STAGE c` (R151), with the address check every command makes (`20_memory.md` R76; assumption log 11). -/
def execStage (c : Nat) (s : State) : Outcome :=
  if s.run || s.accelBusy then .next (s.raiseStatus .errBusy)
  else if !s.stagerConfigured c then .next (s.raiseStatus .errConfig)
  else if !stagerMapped c (s.histLen c) s.bsize.toNat then .next (s.raiseStatus .errBus)
  else .next (State.complete { s with mem := stageWords c (s.histLen c) s.bsize.toNat s.mem } 0)

/-- `CAPTURE c` (R153), accepted while a job is in flight; address check as in `STAGE` (assumption log 11). -/
def execCapture (c : Nat) (s : State) : Outcome :=
  if s.run then .next (s.raiseStatus .errBusy)
  else if !s.stagerConfigured c then .next (s.raiseStatus .errConfig)
  else if !stagerMapped c (s.histLen c) s.bsize.toNat then .next (s.raiseStatus .errBus)
  else .next (State.complete { s with mem := captureWords c (s.histLen c) s.bsize.toNat s.mem } 0)

end Sys2Proof.Machine
end

