-- ==== Sys2Proof/Machine/Orchestrator.lean ====
section
/-! DEFINITION. The orchestrator: `START`, `STOP` and the block-cycle steps (`43_orchestrator.md`). -/

namespace Sys2Proof.Machine

/-! ## START and STOP -/

/-- L5 of `CheckStart()` for one channel (R217): the channel's descriptor agrees with the staging layer. -/
def State.channelAgrees (s : State) (c : Nat) : Bool :=
  let d := s.mem.descriptor (chainAddr s.mem s.firHead c)
  decide (d.taps = (s.chan c).taps.toNat) && decide (d.outLen = s.bsize) && decide (d.inBase = Region.win.base c)
    && decide (d.outBase = Region.out.base c)

/-- `CheckStart()` (R217). -/
def State.checkStart (s : State) : Bool :=
  match s.mode with
  | .liveStreaming =>
    s.nchLegal && s.bsizeLegal
      && allBelow s.nch.toNat (fun c => (s.chan c).configured)
      && s.chainValid s.firHead
      && (!(s.mem.descriptor s.firHead).ai && (s.mem.descriptor s.firHead).ci)
      && allBelow s.nch.toNat s.channelAgrees
  | .offlineValidation =>
    s.nchLegal && s.chainValid s.firHead && ((s.mem.descriptor s.firHead).ai && (s.mem.descriptor s.firHead).ci)

/-- The transport's side of a rise of `transportEnable`: `fillSlot` is 0 (R212). DESIGN CHOICE (assumption log 10): `filled`
is emptied, so words written before a `STOP` and a new `START` do not count towards the first delivery of the new run; R212
says only 'since the last delivery'. -/
def State.transportRise (s : State) : State := { s with fillSlot := 0, filled := [] }

/-- `START` (R210). -/
def execStart (s : State) : Outcome :=
  if s.run || decide (s.phase ≠ .idle) || s.accelBusy || s.filterDone then .next (s.raiseStatus .errBusy)
  else if s.cfgError || !s.checkStart then .next (s.raiseStatus .errConfig)
  else
    let t := { s with run := true, blockReady := false }
    match s.mode with
    | .offlineValidation => .next (State.complete { t.dispatchJob.2 with processingActive := true, phase := .dispatched } 0)
    | .liveStreaming => .next (t.transportRise.complete 0)

/-- `STOP` (R211). -/
def execStop (s : State) : Outcome :=
  if !s.run || decide (s.phase ≠ .idle) || s.accelBusy then .next (s.raiseStatus .errBusy)
  else .next (State.complete { s with run := false, blockReady := false } 0)

/-! ## The steps of the state machine -/

/-- The steps of the agent `ORCH` (R218). -/
inductive OrchStep where
  | s1
  | s2
  | s3
  | s4
  | s5
  | s4v
  deriving DecidableEq, Repr

/-- The one enabled step, if there is one (R218). -/
def State.orchEnabled (s : State) : Option OrchStep :=
  match s.phase with
  | .idle => if s.run && s.mode.bit && s.blockReady then some .s1 else none
  | .converting => some .s2
  | .staging => some .s3
  | .dispatched =>
    if s.filterDone then
      match s.mode with
      | .liveStreaming => some .s4
      | .offlineValidation => some .s4v
    else none
  | .emitting => some .s5

/-- S1 (R219). -/
def State.stepS1 (s : State) : State :=
  { s with blockReady := false, processingActive := true, curSlot := s.rxSlot, phase := .converting }

/-- The address of a channel's first sample in the current receive slot (`40_conversion.md` R138). -/
def State.rxChannel (s : State) (c : Nat) : Word := unitStride (Region.rx.base s.curSlot.val) c

/-- The address of a channel's first sample in the current transmit slot (R138). -/
def State.txChannel (s : State) (c : Nat) : Word := unitStride (Region.tx.base s.curSlot.val) c

/-- S2 (R220). -/
def State.stepS2 (s : State) : Outcome :=
  if allBelow s.nch.toNat fun c => toFloatMapped (Region.csb.base c) (s.rxChannel c) s.nch s.bsize.toNat then
    .next
      { s with
        mem := iterUp s.nch.toNat
          (fun c m => convertToFloat s.fxw.val (Region.csb.base c) (s.rxChannel c) s.nch s.bsize.toNat m) s.mem
        phase := .staging }
  else .fault .unmappedUnitAccess

/-- `Stage(c)` for every channel, ascending (R221). -/
def State.stageAll (s : State) : State :=
  { s with mem := iterUp s.nch.toNat (fun c m => stageWords c (s.histLen c) s.bsize.toNat m) s.mem }

/-- `Capture(c)` for every channel, ascending (R221). -/
def State.captureAll (s : State) : State :=
  { s with mem := iterUp s.nch.toNat (fun c m => captureWords c (s.histLen c) s.bsize.toNat m) s.mem }

/-- S3 (R221): the splice, the dispatch, the capture, and the two failure branches. -/
def State.stepS3 (s : State) : Outcome :=
  if allBelow s.nch.toNat fun c => stagerMapped c (s.histLen c) s.bsize.toNat then
    match s.stageAll.dispatchJob with
    | (.ok, t) => .next { t.captureAll with phase := .dispatched }
    | (.errOverrun, t) => .next { t with processingActive := false, phase := .idle }
    | (_, t) => .next { t with phase := .dispatched }
  else .fault .unmappedUnitAccess

/-- S4 (R222). -/
def State.stepS4 (s : State) : State := { s with filterDone := false, phase := .emitting }

/-- The `count` words from the start of a transmit slot, as an `EMIT` shows them (R215). -/
def txBlock (m : Memory) (slot : Slot) (count : Nat) : List Word :=
  (List.range count).map fun k => m.readWord (unitStride (Region.tx.base slot.val) k)

/-- S5 (R223). -/
def State.stepS5 (s : State) : Outcome :=
  if allBelow s.nch.toNat fun c => toFixedMapped (s.txChannel c) (Region.out.base c) s.nch s.bsize.toNat then
    let p := iterUp s.nch.toNat
      (fun c p => convertToFixed s.fxw.val (s.txChannel c) (Region.out.base c) s.nch s.bsize.toNat p) (s.mem, s.satCount)
    .next
      { s with
        mem := p.1
        satCount := p.2
        emits := s.emits ++ [⟨s.curSlot, txBlock p.1 s.curSlot (s.bsize.toNat * s.nch.toNat)⟩]
        processingActive := false
        phase := .idle }
  else .fault .unmappedUnitAccess

/-- S4V (R225). -/
def State.stepS4V (s : State) : State :=
  { s with filterDone := false, processingActive := false, phase := .idle, run := false }

/-- One step of `ORCH`: the enabled step, or none. -/
def State.stepOrch (s : State) : Outcome :=
  match s.orchEnabled with
  | none => .next s
  | some .s1 => .next s.stepS1
  | some .s2 => s.stepS2
  | some .s3 => s.stepS3
  | some .s4 => .next s.stepS4
  | some .s5 => s.stepS5
  | some .s4v => .next s.stepS4V

end Sys2Proof.Machine
end

