-- ==== Sys2Proof/Machine/Dispatch.lean ====
section
/-! DEFINITION. One arm for each command of the opcode table. -/

namespace Sys2Proof.Machine

def exec (i : Instr) (s : State) : Host.Outcome State Fault Refusal :=
  match i with
  | .nop => Sys2Proof.Machine.execNop s
  | .tofloat => Sys2Proof.Machine.execTofloat s
  | .tofixed => Sys2Proof.Machine.execTofixed s
  | .stage c => Sys2Proof.Machine.execStage c s
  | .capture c => Sys2Proof.Machine.execCapture c s
  | .configure c => Sys2Proof.Machine.execConfigure c s
  | .dispatch => Sys2Proof.Machine.execDispatch s
  | .isdone => Sys2Proof.Machine.execIsdone s
  | .waitdone => Sys2Proof.Machine.execWaitdone s
  | .start => Sys2Proof.Machine.execStart s
  | .stop => Sys2Proof.Machine.execStop s

end Sys2Proof.Machine
end

