-- ==== Sys2Proof/Machine/Agents.lean ====
section
/-! DEFINITION. The agents' turns: the host bus (`44_host_bus.md`), the transport (`43_orchestrator.md` R212), the
orchestrator, the accelerator and hardware reset, taken in the order the schedule gives. -/

namespace Sys2Proof.Machine

/-! ## The host bus -/

/-- The value a register reads as (R251; `10_state.md` R22 to R41): `CMD` and reserved bits read as 0. -/
def State.readReg (s : State) (r : Reg) : Word :=
  match r with
  | .ctrl => s.ctrlWord
  | .flags => s.flagsWord
  | .phase => s.phase.code
  | .nch => s.nch
  | .bsize => s.bsize
  | .iter => s.iter
  | .firHead => s.firHead
  | .slot => s.slotWord
  | .overrunCount => s.overrunCount
  | .blockCount => s.blockCount
  | .satCount => s.satCount
  | .status => s.status.code
  | .res => s.res
  | .cmd => 0
  | .arg0 => s.arg0
  | .arg1 => s.arg1
  | .arg2 => s.arg2
  | .arg3 => s.arg3
  | .chcfg c => (s.chan c).word

/-- `RD(addr)` (R251): the value is returned to the host; only an unmapped address leaves a trace. -/
def State.busRead (s : State) (a : Word) : State :=
  if mapped a then { s with busReads := s.busReads ++ [s.word a] }
  else
    match regAt a with
    | some r => { s with busReads := s.busReads ++ [s.readReg r] }
    | none => { s with busReads := s.busReads ++ [0], busFault := true }

/-- Execute the command word `w` (R253): decode, then the command; an illegal word raises `ERR_ILLEGAL` (R102). -/
def runCommand (w : Word) (s : State) : Outcome :=
  match decode w with
  | .error _ => .next (s.raiseStatus .errIllegal)
  | .ok i => exec i s

/-- A host write to a register (R252): gated, ignored, or the execution of a command. -/
def State.writeReg (s : State) (r : Reg) (w : Word) : Outcome :=
  match r with
  | .cmd => runCommand w s
  | .arg0 => .next { s with arg0 := w }
  | .arg1 => .next { s with arg1 := w }
  | .arg2 => .next { s with arg2 := w }
  | .arg3 => .next { s with arg3 := w }
  | .ctrl => .next (if s.gateOpen then { s with mode := Mode.ofBit (w.getLsbD 1) } else s)
  | .nch => .next (if s.gateOpen then { s with nch := w } else s)
  | .bsize => .next (if s.gateOpen then { s with bsize := w } else s)
  | .iter => .next (if s.gateOpen then { s with iter := w } else s)
  | .firHead => .next (if s.gateOpen then { s with firHead := w } else s)
  | .flags => .next s
  | .phase => .next s
  | .slot => .next s
  | .overrunCount => .next s
  | .blockCount => .next s
  | .satCount => .next s
  | .status => .next s
  | .res => .next s
  | .chcfg _ => .next s

/-- `WR(addr, w)` (R252). -/
def State.busWrite (s : State) (a w : Word) : Outcome :=
  if mapped a then .next { s with mem := s.mem.writeWord a w }
  else
    match regAt a with
    | some r => s.writeReg r w
    | none => .next { s with busFault := true }

/-- One step of `HOST` (R250). -/
def State.hostOp (s : State) (op : HostOp) : Outcome :=
  match op with
  | .read a => .next (s.busRead a)
  | .write a w => s.busWrite a w

/-- The host's turn: its next step, or, while a `WAITDONE` holds, the end of that command once the hold is lifted and no
step before (`42_fir_engine.md` R181). -/
def State.hostTurn (s : State) : Outcome :=
  if s.waitHold then .next (if s.holdLifted then s.finishWait else s)
  else
    match s.hostOps with
    | [] => .next s
    | op :: ops => State.hostOp { s with hostOps := ops } op

/-! ## The transport (`43_orchestrator.md` R212, R213) -/

/-- One step of `TRANSPORT`, contract-keeping or not (`93_implementation_defined.md` U4; assumption log 10). -/
def State.transportOp (s : State) (op : TransportOp) : State :=
  match op with
  | .write slot offset w =>
    { s with
      mem := s.mem.writeWord (Region.rx.base slot.val + offset.setWidth 32) w
      filled := if slot = s.fillSlot ∧ offset ∉ s.filled then s.filled ++ [offset] else s.filled }
  | .read slot offset =>
    { s with drained := s.drained ++ [s.word (Region.tx.base slot.val + offset.setWidth 32)] }
  | .deliver slot group =>
    if s.transportEnable ∧ slot = s.fillSlot.val ∧ group = 0 then
      { s.deliver slot group with fillSlot := s.fillSlot + 1, filled := [] }
    else s.deliver slot group

/-- The transport's turn. -/
def State.transportTurn (s : State) : State :=
  match s.transportOps with
  | [] => s
  | op :: ops => State.transportOp { s with transportOps := ops } op

/-! ## One turn of the schedule (`00_scope.md` R6; assumption log 6) -/

/-- One atomic step of the agent whose turn it is; an agent with no enabled step lets its turn pass. -/
def State.takeTurn (s : State) (turn : Turn) : Outcome :=
  match turn with
  | .host => s.hostTurn
  | .transport => .next s.transportTurn
  | .orch => s.stepOrch
  | .accel => .next (if s.accelBusy then s.stepX1 else s)
  | .reset => .next s.hardwareReset

/-- The next turn of the schedule; with no turn left nothing moves (`70_reset_and_hazards.md` R311). -/
def State.advance (s : State) : Outcome :=
  match s.turns with
  | [] => .next s
  | turn :: rest => State.takeTurn { s with turns := rest } turn

/-- Put the bus write that executes a command word first in the host's steps, and the host first in the schedule; no
`WAITDONE` is pending (assumption log 7). -/
def State.withCommand (s : State) (w : Word) : State :=
  { s with turns := .host :: s.turns, hostOps := .write (regAddr 0x0D) w :: s.hostOps, waitHold := false }

end Sys2Proof.Machine
end

