-- ==== Sys2Proof/Machine/Step.lean ====
section
/-! DEFINITION. One step of the machine, and the state whose next step runs a given command word. -/

namespace Sys2Proof.Machine

/-- One atomic step of one agent (`00_scope.md` R6). -/
def step (s : State) : Host.Outcome State Fault Refusal := s.advance

/-- `s` with a command of the opcode table as the host's next bus write to `CMD` and the host's turn next. A command is one
32-bit word: `nbits` is never more, and the bits above it are zero. -/
def State.withFetchWord (s : State) (nbits w : Nat) : State := s.withCommand (BitVec.ofNat 32 (w % 2 ^ nbits))

end Sys2Proof.Machine
end

