-- ==== Sys2Proof/Safety.lean ====
section
/-! DEFINITION. What claims speak about: the next state of an outcome, the invariants of the machine, the transport's
contract and the quiescent states. -/

namespace Sys2Proof.Machine

/-- The next state of an outcome, if it is one. -/
def nextState (o : Outcome) : Option State :=
  match o with
  | .next s => some s
  | .fault _ => none
  | .refused _ => none

/-- Two memories hold the same bytes outside the `n` words at the addresses `addr 0` to `addr (n - 1)`; a byte never written
stays never written. -/
def Memory.agreeOutside (m m' : Memory) (n : Nat) (addr : Nat → Word) : Prop :=
  ∀ k, (∀ i, i < n → k / 4 ≠ (addr i).toNat) → m'.byteAt k = m.byteAt k

/-- Data memory lists only bytes of mapped words: no access outside the map was ever performed (`20_memory.md` R76). -/
def Memory.inMap (m : Memory) : Prop := ∀ c ∈ m, c.1 / 4 < 2 ^ 32 ∧ mapped (BitVec.ofNat 32 (c.1 / 4)) = true

/-- The invariant of the machine: the memory's form, I1 to I5 of `43_orchestrator.md` R226 (I6 holds by the type of
`PHASE`), and what the commands' checks establish. -/
structure State.Inv (s : State) : Prop where
  /-- The memory is in canonical form. -/
  memCanonical : s.mem.wf = true
  /-- The memory lists only mapped words (R76). -/
  memInMap : s.mem.inMap
  /-- I1 (R226; `10_state.md` R27). -/
  guardIsPhase : s.processingActive = true ↔ s.phase ≠ .idle
  /-- I2. -/
  stoppedIsIdle : s.run = false → s.phase = .idle
  /-- I3. -/
  busyIsDispatched : s.run = true → s.accelBusy = true → s.phase = .dispatched
  /-- I4. -/
  doneIsDispatched : s.run = true → s.filterDone = true → s.phase = .dispatched
  /-- I5. -/
  notBusyAndDone : ¬ (s.accelBusy = true ∧ s.filterDone = true)
  /-- A job in flight has laps and descriptors left (`44_host_bus.md` R257 (f)), over a legal `NCH`. -/
  jobLeft : s.accelBusy = true → s.nchLegal = true ∧ 1 ≤ s.descLeft ∧ s.descLeft ≤ s.nch.toNat ∧ 1 ≤ s.lapsLeft.toNat
  /-- A configured channel has a legal tap count (`42_fir_engine.md` R166, R167). -/
  tapsLegal : ∀ c, (s.chan c).configured = true → 1 ≤ (s.chan c).taps.toNat ∧ (s.chan c).taps.toNat ≤ Config.maxTaps
  /-- The geometry of a live run is the one `START` checked (R217; `40_conversion.md` R138). -/
  liveGeometry : s.run = true → s.mode = .liveStreaming →
    s.nchLegal = true ∧ s.bsizeLegal = true ∧ ∀ c, c < s.nch.toNat → (s.chan c).configured = true
  /-- A run in offline validation waits for its job (R210, R225). -/
  offlineIsDispatched : s.run = true → s.mode = .offlineValidation → s.phase = .dispatched

/-- The transport keeps its contract with this step (`43_orchestrator.md` R212). -/
def TransportOp.keepsContract (op : TransportOp) (s : State) : Prop :=
  s.transportEnable = true ∧
    match op with
    | .write slot offset _ => slot = s.fillSlot ∧ offset.toNat < s.bsize.toNat * s.nch.toNat
    | .read slot offset => slot = s.fillSlot ∧ offset.toNat < s.bsize.toNat * s.nch.toNat
    | .deliver slot group => slot = s.fillSlot.val ∧ group = 0 ∧
        ∀ o : BitVec 16, o.toNat < s.bsize.toNat * s.nch.toNat → o ∈ s.filled

/-- If the next turn is the transport's, its step keeps the contract. -/
def State.transportBehaves (s : State) : Prop :=
  ∀ rest op ops, s.turns = .transport :: rest → s.transportOps = op :: ops → op.keepsContract s

/-- Double buffering (R214; `70_reset_and_hazards.md` R322): a pending block is not in the slot being filled, and neither is
the block of a cycle during which nothing was delivered. -/
structure State.SlotsApart (s : State) : Prop where
  /-- The delivered slot is not the one being filled. -/
  pending : s.blockReady = true → s.rxSlot ≠ s.fillSlot
  /-- The slot of the running cycle is not the one being filled. -/
  current : s.transportEnable = true → s.processingActive = true → s.blockReady = false → s.curSlot ≠ s.fillSlot

/-- A quiescent state (`00_scope.md` R17): neither `ORCH` nor `ACCEL` has a step, and the host issues nothing. -/
def State.quiescent (s : State) : Prop := s.orchEnabled = none ∧ s.accelBusy = false ∧ s.hostOps = [] ∧ s.waitHold = false

/-- A clean state (R17): the only quiescent states that count as a finished run. -/
def State.clean (s : State) : Prop :=
  s.phase = .idle ∧ s.accelBusy = false ∧ s.processingActive = false ∧ s.filterDone = false ∧ s.cfgError = false ∧
    s.busFault = false ∧ s.protoFault = false

end Sys2Proof.Machine
end

