-- ==== Sys2Proof/Certificates/Slice0/Obligations.lean ====
section
/-! DEFINITION. The statements for the provers. Addresses of buffers are `unitStride (Region.<r>.base u) i`, word `i` of
`<R>[u]` (`20_memory.md` R77). A frame is a record update of the old state (every register not named keeps its value) and
`Memory.agreeOutside` (every byte not stored to keeps its value). -/

open Sys2Proof Sys2Proof.Machine

/-! ## Encodings (`30_encoding.md`) -/

/-- R101: a word of each row of the opcode map, written out, decodes to its command. -/
def Obligations.ListedWordsDecode : Prop :=
  decode 0x00000000 = .ok .nop ∧ decode 0x10000000 = .ok .tofloat ∧ decode 0x11000000 = .ok .tofixed ∧
  decode 0x20050000 = .ok (.stage 5) ∧ decode 0x21FF0000 = .ok (.capture 255) ∧ decode 0x30010000 = .ok (.configure 1) ∧
  decode 0x31000000 = .ok .dispatch ∧ decode 0x32000000 = .ok .isdone ∧ decode 0x33000000 = .ok .waitdone ∧
  decode 0x40000000 = .ok .start ∧ decode 0x41000000 = .ok .stop

/-- R100, R101: every command with an encoding is read back from it. -/
def Obligations.DecodeReadsBackEncode : Prop :=
  ∀ i : Instr, i.wellFormed = true → decode (encode i) = .ok i

/-- R100 to R102: a legal word is the encoding of the command it decodes to, and that command is well formed. -/
def Obligations.LegalWordsAreEncodings : Prop :=
  ∀ (w : Word) (i : Instr), decode w = .ok i → encode i = w ∧ i.wellFormed = true

/-! ## Steps and commands (`44_host_bus.md` R253) -/

/-- R253: a host turn whose bus write to `CMD` carries a legal word executes that command, as one step; around `exec` the
step only takes the turn and the bus write off the schedule. -/
def Obligations.StepRunsDecodedCommand : Prop :=
  ∀ (s : State) (w : Word) (i : Instr) (rest : List Turn) (ops : List HostOp),
    s.turns = .host :: rest → s.hostOps = .write 0xFF00000D w :: ops → s.waitHold = false → decode w = .ok i →
    step s = exec i { s with turns := rest, hostOps := ops }

/-- R102: exactly the words with an unlisted `OPC`, a `ZERO` field not 0, or `CH` not 0 in format `N`, are illegal; an illegal
word sets `STATUS` to 1 and `RES` to 0 and changes nothing else, in any run state. -/
def Obligations.IllegalWords : Prop :=
  (∀ w : Word, (∃ e, decode w = .error e) ↔
    ((w >>> 24).toNat ∉ [0x00, 0x10, 0x11, 0x20, 0x21, 0x30, 0x31, 0x32, 0x33, 0x40, 0x41] ∨ w &&& 0x0000FFFF ≠ 0 ∨
      ((w >>> 24).toNat ∉ [0x20, 0x21, 0x30] ∧ w &&& 0x00FF0000 ≠ 0))) ∧
  ∀ (s : State) (w : Word) (e : IllegalWord) (rest : List Turn) (ops : List HostOp),
    s.turns = .host :: rest → s.hostOps = .write 0xFF00000D w :: ops → s.waitHold = false → decode w = .error e →
    step s = .next { s with turns := rest, hostOps := ops, status := .errIllegal, res := 0 }

/-- R254: `NOP` completes in every state and writes only `STATUS` and `RES`. -/
def Obligations.NopOnlyClearsStatus : Prop :=
  ∀ s : State, exec .nop s = .next { s with status := .ok, res := 0 }

/-- R279, the `ERR_BUSY` cells: every command has a next state in every state, and in each run state it ends busy exactly
where the table says. `WAITDONE` may hold instead of ending, so only its busy cell is stated. -/
def Obligations.BusyExactlyWhereTheTableSays : Prop :=
  ∀ (s : State) (i : Instr), ∃ t : State, exec i s = .next t ∧
    match i with
    | .nop => t.status ≠ .errBusy
    | .tofloat => t.status = .errBusy ↔ s.run = true
    | .tofixed => t.status = .errBusy ↔ s.run = true
    | .stage _ => t.status = .errBusy ↔ (s.run = true ∨ s.accelBusy = true)
    | .capture _ => t.status = .errBusy ↔ s.run = true
    | .configure _ => t.status = .errBusy ↔ (s.run = true ∨ s.accelBusy = true)
    | .dispatch => t.status = .errBusy ↔ s.run = true
    | .isdone => t.status = .errBusy ↔ s.run = true
    | .waitdone => s.run = true → t.status = .errBusy
    | .start => t.status = .errBusy ↔ (s.run = true ∨ s.phase ≠ .idle ∨ s.accelBusy = true ∨ s.filterDone = true)
    | .stop => t.status = .errBusy ↔ (s.run = false ∨ s.phase ≠ .idle ∨ s.accelBusy = true)

/-- R271: a command that ends with an error has changed nothing but `STATUS`, `RES`, and the side effect of its code:
`cfgError`, `busFault` or one count in `OVERRUN_COUNT`. (A `WAITDONE` that holds has not ended.) -/
def Obligations.FailedCommandsChangeNothingElse : Prop :=
  ∀ (s t : State) (i : Instr), exec i s = .next t → t.status ≠ .ok →
    (i = .waitdone → s.waitHold = false ∧ t.waitHold = false) →
    t = { s with
          status := t.status
          res := 0
          cfgError := s.cfgError || decide (t.status = .errConfig)
          busFault := s.busFault || decide (t.status = .errBus)
          overrunCount := if t.status = .errOverrun then satInc s.overrunCount else s.overrunCount }

/-! ## The format converter (`40_conversion.md`) -/

/-- R132, R137: `TOFLOAT` in each of its cases. A sample whose source no earlier sample wrote is the conversion of the old
source word; one whose source an earlier sample wrote is the conversion of what that sample wrote. -/
def Obligations.TofloatCommand : Prop :=
  ∀ s : State,
    (s.run = true → exec .tofloat s = .next { s with status := .errBusy, res := 0 }) ∧
    (s.run = false →
      (∃ i, i < s.arg3.toNat ∧
        (mapped (s.arg1 + BitVec.ofNat 32 i * s.arg2) = false ∨ mapped (s.arg0 + BitVec.ofNat 32 i) = false)) →
      exec .tofloat s = .next { s with status := .errBus, res := 0, busFault := true }) ∧
    (s.run = false →
      (∀ i, i < s.arg3.toNat →
        mapped (s.arg1 + BitVec.ofNat 32 i * s.arg2) = true ∧ mapped (s.arg0 + BitVec.ofNat 32 i) = true) →
      ∃ m : Memory, exec .tofloat s = .next { s with mem := m, status := .ok, res := 0 } ∧
        (∀ i, i < s.arg3.toNat →
          (∀ j, j < i → s.arg0 + BitVec.ofNat 32 j ≠ s.arg1 + BitVec.ofNat 32 i * s.arg2) →
          m.readWord (s.arg0 + BitVec.ofNat 32 i) =
            floatOf s.fxw.val (s.mem.readWord (s.arg1 + BitVec.ofNat 32 i * s.arg2))) ∧
        (∀ i j, i < s.arg3.toNat → j < i → s.arg0 + BitVec.ofNat 32 j = s.arg1 + BitVec.ofNat 32 i * s.arg2 →
          m.readWord (s.arg0 + BitVec.ofNat 32 i) = floatOf s.fxw.val (m.readWord (s.arg0 + BitVec.ofNat 32 j))) ∧
        s.mem.agreeOutside m s.arg3.toNat (fun i => s.arg0 + BitVec.ofNat 32 i))

/-- R134, R137: `TOFIXED` in each of its cases. It completes with the last of a sequence of memories and counts, in which
sample `i` is read, converted, written at `dst + i * stride` and counted if it saturates, before sample `i + 1` is read. -/
def Obligations.TofixedCommand : Prop :=
  ∀ s : State,
    (s.run = true → exec .tofixed s = .next { s with status := .errBusy, res := 0 }) ∧
    (s.run = false →
      (∃ i, i < s.arg3.toNat ∧
        (mapped (s.arg0 + BitVec.ofNat 32 i * s.arg2) = false ∨ mapped (s.arg1 + BitVec.ofNat 32 i) = false)) →
      exec .tofixed s = .next { s with status := .errBus, res := 0, busFault := true }) ∧
    (s.run = false →
      (∀ i, i < s.arg3.toNat →
        mapped (s.arg0 + BitVec.ofNat 32 i * s.arg2) = true ∧ mapped (s.arg1 + BitVec.ofNat 32 i) = true) →
      ∃ (m : Nat → Memory) (count : Nat → Word), m 0 = s.mem ∧ count 0 = s.satCount ∧
        (∀ i, i < s.arg3.toNat →
          m (i + 1) = (m i).writeWord (s.arg0 + BitVec.ofNat 32 i * s.arg2)
            (fixOf s.fxw.val ((m i).readWord (s.arg1 + BitVec.ofNat 32 i))).1 ∧
          count (i + 1) =
            if (fixOf s.fxw.val ((m i).readWord (s.arg1 + BitVec.ofNat 32 i))).2 then satInc (count i) else count i) ∧
        exec .tofixed s = .next { s with mem := m s.arg3.toNat, satCount := count s.arg3.toNat, status := .ok, res := 0 } ∧
        s.mem.agreeOutside (m s.arg3.toNat) s.arg3.toNat (fun i => s.arg0 + BitVec.ofNat 32 i * s.arg2))

/-- R134, R135: where source and destination words are different words, a word of the destination holds the conversion of
the last sample written there, and `SAT_COUNT` grows by the number of saturated samples, up to `2^32 - 1`. -/
def Obligations.TofixedSamplesAndCount : Prop :=
  ∀ s : State, s.run = false →
    (∀ i, i < s.arg3.toNat →
      mapped (s.arg0 + BitVec.ofNat 32 i * s.arg2) = true ∧ mapped (s.arg1 + BitVec.ofNat 32 i) = true) →
    (∀ i j, i < s.arg3.toNat → j < s.arg3.toNat → s.arg0 + BitVec.ofNat 32 i * s.arg2 ≠ s.arg1 + BitVec.ofNat 32 j) →
    ∃ (m : Memory) (count : Word),
      exec .tofixed s = .next { s with mem := m, satCount := count, status := .ok, res := 0 } ∧
      (∀ i, i < s.arg3.toNat →
        (∀ j, i < j → j < s.arg3.toNat → s.arg0 + BitVec.ofNat 32 j * s.arg2 ≠ s.arg0 + BitVec.ofNat 32 i * s.arg2) →
        m.readWord (s.arg0 + BitVec.ofNat 32 i * s.arg2) =
          (fixOf s.fxw.val (s.mem.readWord (s.arg1 + BitVec.ofNat 32 i))).1) ∧
      count.toNat = min (2 ^ 32 - 1) (s.satCount.toNat +
        ((List.range s.arg3.toNat).filter
          fun i => (fixOf s.fxw.val (s.mem.readWord (s.arg1 + BitVec.ofNat 32 i))).2).length)

/-- R131: `FloatOf(w)` is the binary32 value nearest to `z * 2^-(FXW-1)`, ties to even, in `[-1.0, +1.0]`, never `-0.0`, an
infinity, a NaN or a subnormal, and exact whenever `FXW <= 25` (values in units of `2^-149`). -/
def Obligations.FloatOfIsTheNearestFloat : Prop :=
  ∀ (fxw : Nat) (w : Word), 2 ≤ fxw → fxw ≤ 32 →
    f32IsFinite (floatOf fxw w) = true ∧
    (sextSample fxw w = 0 → floatOf fxw w = 0) ∧
    (sextSample fxw w ≠ 0 →
      f32Sign (floatOf fxw w) = decide (sextSample fxw w < 0) ∧ f32Exp (floatOf fxw w) ≠ 0) ∧
    |f32Units (floatOf fxw w)| ≤ 2 ^ 149 ∧
    (∀ g : Word, f32IsFinite g = true →
      |f32Units (floatOf fxw w) * 2 ^ (fxw - 1) - sextSample fxw w * 2 ^ 149| ≤
        |f32Units g * 2 ^ (fxw - 1) - sextSample fxw w * 2 ^ 149| ∧
      (|f32Units (floatOf fxw w) * 2 ^ (fxw - 1) - sextSample fxw w * 2 ^ 149| =
          |f32Units g * 2 ^ (fxw - 1) - sextSample fxw w * 2 ^ 149| →
        f32Units g ≠ f32Units (floatOf fxw w) → (floatOf fxw w).getLsbD 0 = false)) ∧
    (fxw ≤ 25 → f32Units (floatOf fxw w) * 2 ^ (fxw - 1) = sextSample fxw w * 2 ^ 149)

/-- R133: a finite word is rounded to a nearest sample, ties to even, and clamped; it saturates exactly when the rounded
value is outside the sample range. NaNs give 0 and infinities the rails, all saturated. -/
def Obligations.FixOfRoundsAndClamps : Prop :=
  ∀ (fxw : Nat) (f : Word), 2 ≤ fxw → fxw ≤ 32 →
    (f32IsNaN f = true → fixOf fxw f = (0, true)) ∧
    (f32IsInf f = true →
      fixOf fxw f = (BitVec.ofInt 32 (if f32Sign f then - 2 ^ (fxw - 1) else 2 ^ (fxw - 1) - 1), true)) ∧
    (f32IsFinite f = true → ∃ r : Int,
      (2 * |f32Units f * 2 ^ (fxw - 1) - r * 2 ^ 149| < 2 ^ 149 ∨
        (2 * |f32Units f * 2 ^ (fxw - 1) - r * 2 ^ 149| = 2 ^ 149 ∧ r % 2 = 0)) ∧
      fixOf fxw f =
        if 2 ^ (fxw - 1) - 1 < r then (BitVec.ofInt 32 (2 ^ (fxw - 1) - 1), true)
        else if r < - 2 ^ (fxw - 1) then (BitVec.ofInt 32 (- 2 ^ (fxw - 1)), true)
        else (BitVec.ofInt 32 r, false))

/-- R136: a sample `z` of magnitude at most `2^24`, or of at most 24 significant bits, comes back unchanged and not
saturated; any other comes back rounded to 24 significant bits (ties to even) and then clamped to `FX_MAX`, which alone
counts as a saturation; the difference is at most `2^(FXW-26)` sample steps. (R136 is derived in the spec, from R131 and
R133.) -/
def Obligations.RoundTripIsWithinHalfAnUlp : Prop :=
  ∀ (fxw : Nat) (w : Word), 2 ≤ fxw → fxw ≤ 32 →
    (|sextSample fxw w| ≤ 2 ^ 24 ∨ (∃ (m : Int) (k : Nat), |m| < 2 ^ 24 ∧ sextSample fxw w = m * 2 ^ k) →
      fixOf fxw (floatOf fxw w) = (BitVec.ofInt 32 (sextSample fxw w), false)) ∧
    (∀ k : Nat, 2 ^ (23 + k) ≤ |sextSample fxw w| → |sextSample fxw w| < 2 ^ (24 + k) →
      ∃ m : Int,
        (2 * |m * 2 ^ k - sextSample fxw w| < 2 ^ k ∨ (2 * |m * 2 ^ k - sextSample fxw w| = 2 ^ k ∧ m % 2 = 0)) ∧
        fixOf fxw (floatOf fxw w) =
          if 2 ^ (fxw - 1) - 1 < m * 2 ^ k then (BitVec.ofInt 32 (2 ^ (fxw - 1) - 1), true)
          else (BitVec.ofInt 32 (m * 2 ^ k), false)) ∧
    2 ^ 26 * |(fixOf fxw (floatOf fxw w)).1.toInt - sextSample fxw w| ≤ 2 ^ fxw

/-- `00_scope.md` R14, the rounding of every binary32 result (the IEEE definition is from general knowledge: assumption log
15): the word for `± n * 2^(-149 - k)` is finite with that sign and no finite magnitude is nearer, an equally near one only if
the result is even, below the midpoint of the largest finite value and `2^128`; from there on it is the infinity. -/
def Obligations.RoundingGivesTheNearestValue : Prop :=
  ∀ (sign : Bool) (n k : Nat),
    ((2 ^ 25 - 1) * 2 ^ (252 + k) ≤ n → f32Round sign n k = f32Inf sign) ∧
    (n < (2 ^ 25 - 1) * 2 ^ (252 + k) →
      f32IsFinite (f32Round sign n k) = true ∧ f32Sign (f32Round sign n k) = sign ∧
      ∀ g : Word, f32IsFinite g = true →
        |(f32Mag (f32Round sign n k) : Int) * 2 ^ k - n| ≤ |(f32Mag g : Int) * 2 ^ k - n| ∧
        (|(f32Mag (f32Round sign n k) : Int) * 2 ^ k - n| = |(f32Mag g : Int) * 2 ^ k - n| →
          f32Mag g ≠ f32Mag (f32Round sign n k) → (f32Round sign n k).getLsbD 0 = false))

/-- `00_scope.md` R14, the binary32 sum and product (IEEE definitions from general knowledge: assumption log 15): a NaN operand
and an invalid operation give a quiet NaN, whichever it is; infinities propagate with their sign; finite operands give the
exact result rounded once, an exact zero sum being `+0.0` unless both operands are `-0.0`. -/
def Obligations.SumAndProduct : Prop :=
  ∀ a b : Word,
    (f32IsNaN a = true ∨ f32IsNaN b = true ∨ (f32IsInf a = true ∧ f32IsZero b = true) ∨
        (f32IsZero a = true ∧ f32IsInf b = true) →
      f32IsNaN (f32Mul a b) = true ∧ (f32Mul a b).getLsbD 22 = true) ∧
    (f32IsNaN a = true ∨ f32IsNaN b = true ∨
        (f32IsInf a = true ∧ f32IsInf b = true ∧ f32Sign a ≠ f32Sign b) →
      f32IsNaN (f32Add a b) = true ∧ (f32Add a b).getLsbD 22 = true) ∧
    (f32IsInf a = true → f32IsNaN b = false → f32IsZero b = false →
      f32Mul a b = f32Inf (f32Sign a != f32Sign b) ∧ f32Mul b a = f32Inf (f32Sign a != f32Sign b)) ∧
    (f32IsInf a = true → f32IsFinite b = true ∨ b = a → f32Add a b = a ∧ f32Add b a = a) ∧
    (f32IsFinite a = true → f32IsFinite b = true →
      f32Mul a b = f32Round (f32Sign a != f32Sign b) (f32Mag a * f32Mag b) 149 ∧
      (f32Units a + f32Units b ≠ 0 →
        f32Add a b = f32Round (decide (f32Units a + f32Units b < 0)) (f32Units a + f32Units b).natAbs 0) ∧
      (f32Units a + f32Units b = 0 → f32Add a b = if a = 0x80000000 ∧ b = 0x80000000 then 0x80000000 else 0))

/-! ## The history stager (`41_history_stager.md`) -/

/-- R151: `STAGE c` in each of its cases; it completes with the history before the new block in the window. (A configured
channel's tap count is legal by `StepKeepsTheInvariant`.) -/
def Obligations.StageCommand : Prop :=
  ∀ (c : Nat) (s : State),
    (s.run = true ∨ s.accelBusy = true → exec (.stage c) s = .next { s with status := .errBusy, res := 0 }) ∧
    (s.run = false → s.accelBusy = false →
      16 ≤ c ∨ (s.chan c).configured = false ∨ s.bsize.toNat = 0 ∨ 4096 < s.bsize.toNat →
      exec (.stage c) s = .next { s with status := .errConfig, res := 0, cfgError := true }) ∧
    (s.run = false → s.accelBusy = false → c < 16 → (s.chan c).configured = true →
      1 ≤ s.bsize.toNat → s.bsize.toNat ≤ 4096 → 1 ≤ (s.chan c).taps.toNat → (s.chan c).taps.toNat ≤ 4096 →
      ∃ m : Memory, exec (.stage c) s = .next { s with mem := m, status := .ok, res := 0 } ∧
        (∀ i, i < (s.chan c).taps.toNat - 1 →
          m.readWord (unitStride (Region.win.base c) i) = s.mem.readWord (unitStride (Region.hist.base c) i)) ∧
        (∀ j, j < s.bsize.toNat →
          m.readWord (unitStride (Region.win.base c) ((s.chan c).taps.toNat - 1 + j)) =
            s.mem.readWord (unitStride (Region.csb.base c) j)) ∧
        s.mem.agreeOutside m ((s.chan c).taps.toNat - 1 + s.bsize.toNat) (unitStride (Region.win.base c)))

/-- R153: `CAPTURE c` in each of its cases; it completes, also while a job is in flight, with the last `T - 1` words of the
window in the history. -/
def Obligations.CaptureCommand : Prop :=
  ∀ (c : Nat) (s : State),
    (s.run = true → exec (.capture c) s = .next { s with status := .errBusy, res := 0 }) ∧
    (s.run = false →
      16 ≤ c ∨ (s.chan c).configured = false ∨ s.bsize.toNat = 0 ∨ 4096 < s.bsize.toNat →
      exec (.capture c) s = .next { s with status := .errConfig, res := 0, cfgError := true }) ∧
    (s.run = false → c < 16 → (s.chan c).configured = true →
      1 ≤ s.bsize.toNat → s.bsize.toNat ≤ 4096 → 1 ≤ (s.chan c).taps.toNat → (s.chan c).taps.toNat ≤ 4096 →
      ∃ m : Memory, exec (.capture c) s = .next { s with mem := m, status := .ok, res := 0 } ∧
        (∀ i, i < (s.chan c).taps.toNat - 1 →
          m.readWord (unitStride (Region.hist.base c) i) =
            s.mem.readWord (unitStride (Region.win.base c) (s.bsize.toNat + i))) ∧
        s.mem.agreeOutside m ((s.chan c).taps.toNat - 1) (unitStride (Region.hist.base c)))

/-- R155, tap continuity: let every cycle `k` find block `k` of the stream `x` in `CSB[c]`, stage it, and hand the captured
history to the next cycle, the first history being zeros. Then word `i` of the window of cycle `k` is sample
`k * B - H + i` of the stream, with zeros before its start, whichever of `H` and `B` is larger. (R155 is derived in the
spec, from R151 and R153.) -/
def Obligations.WindowHoldsTheStream : Prop :=
  ∀ (c h b : Nat) (x : Nat → Word) (start : Nat → Memory), c < 16 → h ≤ 4095 → 1 ≤ b → b ≤ 4096 →
    (∀ i, i < h → (start 0).readWord (unitStride (Region.hist.base c) i) = 0) →
    (∀ k j, j < b → (start k).readWord (unitStride (Region.csb.base c) j) = x (k * b + j)) →
    (∀ k i, i < h → (start (k + 1)).readWord (unitStride (Region.hist.base c) i) =
      (captureWords c h b (stageWords c h b (start k))).readWord (unitStride (Region.hist.base c) i)) →
    ∀ k i, i < b + h →
      (stageWords c h b (start k)).readWord (unitStride (Region.win.base c) i) =
        if k * b + i < h then 0 else x (k * b + i - h)

/-- R157: the stager's operations on different channels commute. -/
def Obligations.StagerChannelsCommute : Prop :=
  ∀ (c d h h' b : Nat) (m : Memory), m.wf = true → c < 16 → d < 16 → c ≠ d → h ≤ 4095 → h' ≤ 4095 → b ≤ 4096 →
    stageWords c h b (stageWords d h' b m) = stageWords d h' b (stageWords c h b m) ∧
    captureWords c h b (captureWords d h' b m) = captureWords d h' b (captureWords c h b m) ∧
    stageWords c h b (captureWords d h' b m) = captureWords d h' b (stageWords c h b m)

/-! ## The FIR engine (`42_fir_engine.md`) -/

/-- R166, R167: `CONFIGURE c` in each of its cases; it completes with `CHCFG[c]`, the nine descriptor words (word 8 is
`CI = 1`, `AI = 1` in offline validation, `WEXP = clog2(bs)`, `TAPS`) and a zero history, and touches nothing else. -/
def Obligations.ConfigureCommand : Prop :=
  ∀ (c : Nat) (s : State),
    (s.run = true ∨ s.accelBusy = true → exec (.configure c) s = .next { s with status := .errBusy, res := 0 }) ∧
    (s.run = false → s.accelBusy = false →
      s.nch.toNat = 0 ∨ 16 < s.nch.toNat ∨ s.nch.toNat ≤ c ∨ s.arg1.toNat = 0 ∨ 4096 < s.arg1.toNat ∨ s.arg2.toNat = 0 ∨
        4096 < s.arg2.toNat →
      exec (.configure c) s = .next { s with status := .errConfig, res := 0, cfgError := true }) ∧
    (s.run = false → s.accelBusy = false → c < s.nch.toNat → s.nch.toNat ≤ 16 → 1 ≤ s.arg1.toNat → s.arg1.toNat ≤ 4096 →
      1 ≤ s.arg2.toNat → s.arg2.toNat ≤ 4096 →
      ((∃ k, k < s.arg1.toNat ∧ mapped (s.arg0 + BitVec.ofNat 32 k) = false) →
        exec (.configure c) s = .next { s with status := .errBus, res := 0, busFault := true }) ∧
      ((∀ k, k < s.arg1.toNat → mapped (s.arg0 + BitVec.ofNat 32 k) = true) →
        ∃ t : State, exec (.configure c) s = .next t ∧
          t = { s with chcfg := t.chcfg, mem := t.mem, status := .ok, res := 0 } ∧
          (t.chan c).configured = true ∧ (t.chan c).taps.toNat = s.arg1.toNat ∧ (∀ d, d ≠ c → t.chan d = s.chan d) ∧
          t.word (unitStride (Region.desc.base c) 0) = Region.desc.base ((c + 1) % s.nch.toNat) ∧
          t.word (unitStride (Region.desc.base c) 1) = s.arg0 ∧
          t.word (unitStride (Region.desc.base c) 2) = s.arg1 ∧
          t.word (unitStride (Region.desc.base c) 3) = s.arg0 + s.arg1 - 1 ∧
          t.word (unitStride (Region.desc.base c) 4) = Region.win.base c ∧
          t.word (unitStride (Region.desc.base c) 5) = s.arg2 + s.arg1 - 1 ∧
          t.word (unitStride (Region.desc.base c) 6) = Region.out.base c ∧
          t.word (unitStride (Region.desc.base c) 7) = s.arg2 ∧
          (t.word (unitStride (Region.desc.base c) 8)).toNat =
            2 ^ 31 + (if s.mode = .offlineValidation then 2 ^ 30 else 0) + clog2 s.arg2.toNat * 2 ^ 16 + s.arg1.toNat ∧
          (∀ i, i < s.arg1.toNat - 1 → t.word (unitStride (Region.hist.base c) i) = 0) ∧
          (∀ k, (∀ i, i < 9 → k / 4 ≠ (unitStride (Region.desc.base c) i).toNat) →
            (∀ i, i < s.arg1.toNat - 1 → k / 4 ≠ (unitStride (Region.hist.base c) i).toNat) →
            t.mem.byteAt k = s.mem.byteAt k)))

/-- `00_scope.md` R10: `clog2(n)` is the least `e` with `2^e >= n`. -/
def Obligations.ClogIsTheLeastExponent : Prop :=
  ∀ n : Nat, 1 ≤ n → n ≤ 2 ^ clog2 n ∧ ∀ e, n ≤ 2 ^ e → clog2 n ≤ e

/-- R169: `FirDot(d, n)` is the sum from `+0.0` of the rounded products `coeff[T-1-j] * window[n+j]`, in ascending `j`. -/
def Obligations.FirDotIsTheOrderedSum : Prop :=
  ∀ (m : Memory) (d : JobDescriptor) (n : Nat),
    firDot m d n = (List.range d.taps).foldl
      (fun acc j => f32Add acc (f32Mul (m.readWord (d.coefIndex - BitVec.ofNat 32 j))
        (m.readWord (d.inBase + BitVec.ofNat 32 ((n + j) % d.inLen.toNat))))) 0

/-- R171: with coefficients `[1.0, 0, .., 0]` and a finite window, `FirDot(d, n)` is the newest sample `window[n+T-1]`; a
newest sample `-0.0` comes out as `+0.0`, as the sum from `+0.0` of R169 gives (the rule speaks of the value). -/
def Obligations.IdentityFilterReturnsNewestSample : Prop :=
  ∀ (m : Memory) (d : JobDescriptor) (n : Nat), 1 ≤ d.taps →
    (∀ j, j < d.taps →
      m.readWord (d.coefIndex - BitVec.ofNat 32 j) = (if j + 1 = d.taps then 0x3F800000#32 else 0#32)) →
    (∀ j, j < d.taps → f32IsFinite (m.readWord (d.inBase + BitVec.ofNat 32 ((n + j) % d.inLen.toNat))) = true) →
    firDot m d n =
      (let w := m.readWord (d.inBase + BitVec.ofNat 32 ((n + d.taps - 1) % d.inLen.toNat))
       if w = 0x80000000 then 0 else w)

/-- R172: a descriptor is valid exactly when V1 to V11 hold, the last two as disjointness of address sets. -/
def Obligations.DescValidIsV1ToV11 : Prop :=
  ∀ (m : Memory) (a : Word), descValid m a = true ↔
    (let d := m.descriptor a
     a ≠ 0 ∧ (∀ k, k < 9 → mapped (a + BitVec.ofNat 32 k) = true) ∧
     (∀ b, 21 ≤ b → b ≤ 29 → d.ctrl.getLsbD b = false) ∧
     1 ≤ d.ctrl.toNat % 2 ^ 16 ∧ d.ctrl.toNat % 2 ^ 16 ≤ 4096 ∧
     d.coefLen.toNat = d.ctrl.toNat % 2 ^ 16 ∧
     d.coefIndex = d.coefBase + d.coefLen - 1 ∧
     1 ≤ d.outLen.toNat ∧ d.outLen.toNat ≤ 4096 ∧
     d.inLen.toNat = d.outLen.toNat + d.ctrl.toNat % 2 ^ 16 - 1 ∧
     d.ctrl.toNat / 2 ^ 16 % 2 ^ 5 = clog2 d.outLen.toNat ∧
     (∀ k, k < d.ctrl.toNat % 2 ^ 16 → mapped (d.coefBase + BitVec.ofNat 32 k) = true) ∧
     (∀ i, i < d.inLen.toNat → mapped (d.inBase + BitVec.ofNat 32 i) = true) ∧
     (∀ n, n < d.outLen.toNat → mapped (d.outBase + BitVec.ofNat 32 n) = true) ∧
     (∀ n, n < d.outLen.toNat →
       (∀ i, i < d.inLen.toNat → d.outBase + BitVec.ofNat 32 n ≠ d.inBase + BitVec.ofNat 32 i) ∧
       (∀ k, k < d.ctrl.toNat % 2 ^ 16 → d.outBase + BitVec.ofNat 32 n ≠ d.coefBase + BitVec.ofNat 32 k) ∧
       (∀ k, k < 9 → d.outBase + BitVec.ofNat 32 n ≠ a + BitVec.ofNat 32 k)))

/-- R173: a chain is valid exactly when C1 to C6 hold along the walk `d_0 = h`, `d_(i+1) = NEXT(d_i)`. -/
def Obligations.ChainValidIsC1ToC6 : Prop :=
  ∀ (s : State) (h : Word), s.chainValid h = true ↔
    ∃ d : Nat → Word, d 0 = h ∧ (∀ i, d (i + 1) = s.mem.readWord (d i)) ∧
      1 ≤ s.nch.toNat ∧ s.nch.toNat ≤ 16 ∧
      (∀ i, i < s.nch.toNat → descValid s.mem (d i) = true) ∧
      (∀ i, i < s.nch.toNat →
        (s.mem.descriptor (d i)).ai = (s.mem.descriptor h).ai ∧ (s.mem.descriptor (d i)).ci = (s.mem.descriptor h).ci) ∧
      (d s.nch.toNat = h ∨ (d s.nch.toNat = 0 ∧ (s.mem.descriptor h).ai = false)) ∧
      ((s.mem.descriptor h).ai = true → 1 ≤ s.iter.toNat) ∧
      (∀ i j, i < s.nch.toNat → j < s.nch.toNat → d i = d j → i = j)

/-- R174 to R177: `DISPATCH` in each of its cases: refused, overrun (the job in flight untouched), configuration failure, or
armed with the head descriptor. -/
def Obligations.DispatchCommand : Prop :=
  ∀ s : State,
    (s.run = true → exec .dispatch s = .next { s with status := .errBusy, res := 0 }) ∧
    (s.run = false → s.accelBusy = true ∨ s.filterDone = true →
      exec .dispatch s = .next { s with status := .errOverrun, res := 0, overrunCount := satInc s.overrunCount }) ∧
    (s.run = false → s.accelBusy = false → s.filterDone = false → s.chainValid s.firHead = false →
      exec .dispatch s = .next { s with status := .errConfig, res := 0, cfgError := true }) ∧
    (s.run = false → s.accelBusy = false → s.filterDone = false → s.chainValid s.firHead = true →
      exec .dispatch s = .next
        { s with
          status := .ok
          res := 0
          jobCI := (s.mem.readWord (s.firHead + 8)).getLsbD 31
          jobAI := (s.mem.readWord (s.firHead + 8)).getLsbD 30
          cp := s.firHead
          descLeft := s.nch.toNat
          lapsLeft := if (s.mem.readWord (s.firHead + 8)).getLsbD 30 then s.iter else 1
          accelBusy := true })

/-- R180: `ISDONE` in each of its cases; it clears the flag it observes. -/
def Obligations.IsdoneCommand : Prop :=
  ∀ s : State,
    (s.run = true → exec .isdone s = .next { s with status := .errBusy, res := 0 }) ∧
    (s.run = false → s.filterDone = true →
      exec .isdone s = .next { s with status := .ok, res := 1, filterDone := false }) ∧
    (s.run = false → s.filterDone = false → exec .isdone s = .next { s with status := .ok, res := 0 })

/-- R181: `WAITDONE`, issued while no other `WAITDONE` is pending, in each of its cases: it completes when the completion is
there, ends with `ERR_NOJOB` when there is nothing to wait for, and else holds with no other effect. -/
def Obligations.WaitdoneCommand : Prop :=
  ∀ s : State, s.waitHold = false →
    (s.run = true → exec .waitdone s = .next { s with status := .errBusy, res := 0 }) ∧
    (s.run = false → s.filterDone = true →
      exec .waitdone s = .next { s with status := .ok, res := 1, filterDone := false }) ∧
    (s.run = false → s.filterDone = false → s.accelBusy = false ∨ s.jobCI = false →
      exec .waitdone s = .next { s with status := .errNoJob, res := 0 }) ∧
    (s.run = false → s.filterDone = false → s.accelBusy = true → s.jobCI = true →
      exec .waitdone s = .next { s with waitHold := true })

/-- R181: a host turn while `WAITDONE` holds: nothing until `filterDone` rises or the job ends, then the command ends, and
the host's next bus step is not taken. -/
def Obligations.WaitdoneHoldIsLifted : Prop :=
  ∀ (s : State) (rest : List Turn), s.turns = .host :: rest → s.waitHold = true →
    (s.filterDone = false → s.accelBusy = true → step s = .next { s with turns := rest }) ∧
    (s.filterDone = true →
      step s = .next { s with turns := rest, waitHold := false, filterDone := false, status := .ok, res := 1 }) ∧
    (s.filterDone = false → s.accelBusy = false →
      step s = .next { s with turns := rest, waitHold := false, status := .errNoJob, res := 0 })

/-- R190, R191: X1, enabled exactly while `accelBusy` is set; without it the turn passes and changes nothing but the schedule
(assumption log 6). On a valid descriptor it completes: the output words are `FirDot` of the memory at the start of the step,
nothing else in memory changes, and the job moves on in one of three ways. On an invalid one the job aborts: `cfgError` is
set, `accelBusy` falls, no output is written and no completion is raised. The descriptor is the nine words at `CP` in the
order of `30_encoding.md` R104, with the tap count in the low half of the control word (R105). -/
def Obligations.AccelStep : Prop :=
  ∀ (s : State) (rest : List Turn), s.turns = .accel :: rest →
    s.mem.descriptor s.cp =
      ⟨s.mem.readWord s.cp, s.mem.readWord (s.cp + 1), s.mem.readWord (s.cp + 2), s.mem.readWord (s.cp + 3),
        s.mem.readWord (s.cp + 4), s.mem.readWord (s.cp + 5), s.mem.readWord (s.cp + 6), s.mem.readWord (s.cp + 7),
        s.mem.readWord (s.cp + 8)⟩ ∧
    (s.mem.descriptor s.cp).taps = (s.mem.readWord (s.cp + 8)).toNat % 2 ^ 16 ∧
    (s.accelBusy = false → step s = .next { s with turns := rest }) ∧
    (s.accelBusy = true → descValid s.mem s.cp = false →
      step s = .next { s with turns := rest, cfgError := true, accelBusy := false }) ∧
    (s.accelBusy = true → descValid s.mem s.cp = true → ∃ m : Memory,
      (∀ n, n < (s.mem.descriptor s.cp).outLen.toNat →
        m.readWord (unitStride (s.mem.descriptor s.cp).outBase n) = firDot s.mem (s.mem.descriptor s.cp) n) ∧
      s.mem.agreeOutside m (s.mem.descriptor s.cp).outLen.toNat (unitStride (s.mem.descriptor s.cp).outBase) ∧
      (2 ≤ s.descLeft →
        step s = .next { s with turns := rest, mem := m, descLeft := s.descLeft - 1, cp := s.mem.readWord s.cp }) ∧
      (s.descLeft = 1 → 2 ≤ s.lapsLeft.toNat →
        step s = .next
          { s with turns := rest, mem := m, descLeft := s.nch.toNat, cp := s.firHead, lapsLeft := s.lapsLeft - 1 }) ∧
      (s.descLeft = 1 → s.lapsLeft.toNat = 1 →
        step s = .next
          { s with
            turns := rest, mem := m, descLeft := 0, lapsLeft := 0, accelBusy := false
            filterDone := s.filterDone || s.jobCI }))

/-- R190: a job takes as many X1 steps as descriptors are left in it: each step on a valid descriptor takes one off
`(lapsLeft - 1) * NCH + descLeft`, and the step that takes off the last one ends the job, with the completion interrupt
exactly when `jobCI` is set. -/
def Obligations.EveryAccelStepBringsTheJobCloser : Prop :=
  ∀ (s t : State) (rest : List Turn), s.Inv → s.turns = .accel :: rest → s.accelBusy = true →
    descValid s.mem s.cp = true → step s = .next t →
    (t.accelBusy = true ∧
        (t.lapsLeft.toNat - 1) * t.nch.toNat + t.descLeft + 1 = (s.lapsLeft.toNat - 1) * s.nch.toNat + s.descLeft) ∨
      (t.accelBusy = false ∧ (s.lapsLeft.toNat - 1) * s.nch.toNat + s.descLeft = 1 ∧ t.filterDone = s.jobCI)

/-! ## The orchestrator (`43_orchestrator.md`) -/

/-- R210: `START` in each of its cases. The check is `CheckStart()`; in offline validation it leaves a dispatched job. That a
live start puts `fillSlot` at 0 is R212's; that it empties `filled` is the model's choice (assumption log 10). -/
def Obligations.StartCommand : Prop :=
  ∀ s : State,
    (s.run = true ∨ s.phase ≠ .idle ∨ s.accelBusy = true ∨ s.filterDone = true →
      exec .start s = .next { s with status := .errBusy, res := 0 }) ∧
    (s.run = false → s.phase = .idle → s.accelBusy = false → s.filterDone = false →
      (s.cfgError = true ∨ s.checkStart = false →
        exec .start s = .next { s with status := .errConfig, res := 0, cfgError := true }) ∧
      (s.cfgError = false → s.checkStart = true → s.mode = .liveStreaming →
        exec .start s = .next { s with status := .ok, res := 0, run := true, blockReady := false, fillSlot := 0, filled := [] }) ∧
      (s.cfgError = false → s.checkStart = true → s.mode = .offlineValidation →
        exec .start s = .next
          { s with
            status := .ok, res := 0, run := true, blockReady := false, processingActive := true, phase := .dispatched
            jobCI := true, jobAI := true, cp := s.firHead, descLeft := s.nch.toNat, lapsLeft := s.iter, accelBusy := true }))

/-- R217: `CheckStart()` holds exactly when L1 to L5 hold in live streaming, and V1 and V2 in offline validation. -/
def Obligations.CheckStartIsTheListedConditions : Prop :=
  ∀ s : State,
    (s.mode = .liveStreaming → (s.checkStart = true ↔
      (1 ≤ s.nch.toNat ∧ s.nch.toNat ≤ 16 ∧ 1 ≤ s.bsize.toNat ∧ s.bsize.toNat ≤ 4096 ∧
        (∀ c, c < s.nch.toNat → (s.chan c).configured = true) ∧
        s.chainValid s.firHead = true ∧
        (s.mem.descriptor s.firHead).ai = false ∧ (s.mem.descriptor s.firHead).ci = true ∧
        (∀ c, c < s.nch.toNat →
          (s.mem.descriptor (chainAddr s.mem s.firHead c)).taps = (s.chan c).taps.toNat ∧
          (s.mem.descriptor (chainAddr s.mem s.firHead c)).outLen = s.bsize ∧
          (s.mem.descriptor (chainAddr s.mem s.firHead c)).inBase = Region.win.base c ∧
          (s.mem.descriptor (chainAddr s.mem s.firHead c)).outBase = Region.out.base c)))) ∧
    (s.mode = .offlineValidation → (s.checkStart = true ↔
      (1 ≤ s.nch.toNat ∧ s.nch.toNat ≤ 16 ∧ s.chainValid s.firHead = true ∧
        (s.mem.descriptor s.firHead).ai = true ∧ (s.mem.descriptor s.firHead).ci = true)))

/-- R211: `STOP` in each of its cases. -/
def Obligations.StopCommand : Prop :=
  ∀ s : State,
    (s.run = false ∨ s.phase ≠ .idle ∨ s.accelBusy = true → exec .stop s = .next { s with status := .errBusy, res := 0 }) ∧
    (s.run = true → s.phase = .idle → s.accelBusy = false →
      exec .stop s = .next { s with status := .ok, res := 0, run := false, blockReady := false })

/-- R213: `DELIVER(s, g)` masked, with a bad slot or group, and accepted; its effect on every register of the block. -/
def Obligations.DeliverInterrupt : Prop :=
  ∀ (s : State) (a g : Nat),
    (s.run = false ∨ s.mode = .offlineValidation → s.deliver a g = s) ∧
    (s.run = true → s.mode = .liveStreaming → g ≠ 0 ∨ 1 < a → s.deliver a g = { s with protoFault := true }) ∧
    (s.run = true → s.mode = .liveStreaming → g = 0 → a ≤ 1 →
      s.deliver a g =
        { s with
          overrunCount := if s.blockReady = true ∨ s.processingActive = true then satInc s.overrunCount else s.overrunCount
          blockCount := satInc s.blockCount
          rxSlot := if a = 1 then 1 else 0
          blockReady := true })

/-- R212, R213: the transport's turn: a receive-slot write, a transmit-slot read, a delivery. The transport's own `fillSlot`
flips, and `filled` empties, at a delivery of the contract's form (enabled, `s = fillSlot`, `g = 0`), as R212 says; that both
stay as they were at any other delivery is the model's (assumption log 10). -/
def Obligations.TransportTurn : Prop :=
  ∀ (s : State) (rest : List Turn) (op : TransportOp) (ops : List TransportOp),
    s.turns = .transport :: rest → s.transportOps = op :: ops →
    match op with
    | .write slot offset w => ∃ (m : Memory) (f : List (BitVec 16)),
        step s = .next { s with turns := rest, transportOps := ops, mem := m, filled := f } ∧
        m.readWord (unitStride (Region.rx.base slot.val) offset.toNat) = w ∧
        s.mem.agreeOutside m 1 (fun _ => unitStride (Region.rx.base slot.val) offset.toNat) ∧
        (∀ o, o ∈ f ↔ o ∈ s.filled ∨ (o = offset ∧ slot = s.fillSlot))
    | .read slot offset =>
        step s = .next
          { s with
            turns := rest, transportOps := ops
            drained := s.drained ++ [s.mem.readWord (unitStride (Region.tx.base slot.val) offset.toNat)] }
    | .deliver a g => ∃ (fs : Slot) (f : List (BitVec 16)),
        step s = .next
          { State.deliver { s with turns := rest, transportOps := ops } a g with fillSlot := fs, filled := f } ∧
        (s.transportEnable = true → a = s.fillSlot.val → g = 0 → fs.val = 1 - s.fillSlot.val ∧ f = []) ∧
        (s.transportEnable = false ∨ a ≠ s.fillSlot.val ∨ g ≠ 0 → fs = s.fillSlot ∧ f = s.filled)

/-- R218: with no enabled step, the orchestrator's turn changes nothing but the schedule; and S1 is enabled in `IDLE` only
by a pending block of a live run, S4 and S4V in `DISPATCHED` only by `filterDone`, S2, S3, S5 by the phase alone. -/
def Obligations.OrchestratorEnabledSteps : Prop :=
  ∀ (s : State) (rest : List Turn), s.turns = .orch :: rest →
    (s.orchEnabled = none → step s = .next { s with turns := rest }) ∧
    (s.orchEnabled = some .s1 ↔
      (s.run = true ∧ s.mode = .liveStreaming ∧ s.phase = .idle ∧ s.blockReady = true)) ∧
    (s.orchEnabled = some .s2 ↔ s.phase = .converting) ∧
    (s.orchEnabled = some .s3 ↔ s.phase = .staging) ∧
    (s.orchEnabled = some .s4 ↔ (s.phase = .dispatched ∧ s.mode = .liveStreaming ∧ s.filterDone = true)) ∧
    (s.orchEnabled = some .s5 ↔ s.phase = .emitting) ∧
    (s.orchEnabled = some .s4v ↔ (s.phase = .dispatched ∧ s.mode = .offlineValidation ∧ s.filterDone = true))

/-- R219, R222, R225: the steps that wait for a flag. S1 takes the pending block; S4 and S4V observe the completion; each
clears the flag it waits for. -/
def Obligations.StepsS1S4AndS4V : Prop :=
  ∀ (s : State) (rest : List Turn), s.turns = .orch :: rest →
    (s.run = true → s.mode = .liveStreaming → s.phase = .idle → s.blockReady = true →
      step s = .next
        { s with
          turns := rest, blockReady := false, processingActive := true, curSlot := s.rxSlot, phase := .converting }) ∧
    (s.phase = .dispatched → s.mode = .liveStreaming → s.filterDone = true →
      step s = .next { s with turns := rest, filterDone := false, phase := .emitting }) ∧
    (s.phase = .dispatched → s.mode = .offlineValidation → s.filterDone = true →
      step s = .next
        { s with turns := rest, filterDone := false, processingActive := false, phase := .idle, run := false })

/-- R220: S2 completes with sample `i` of channel `c`, the word at offset `i * N + c` of the receive slot, converted into
`CSB[c]`. -/
def Obligations.StepS2ConvertsTheBlock : Prop :=
  ∀ (s : State) (rest : List Turn), s.turns = .orch :: rest → s.phase = .converting →
    1 ≤ s.nch.toNat → s.nch.toNat ≤ 16 → 1 ≤ s.bsize.toNat → s.bsize.toNat ≤ 4096 →
    ∃ m : Memory, step s = .next { s with turns := rest, mem := m, phase := .staging } ∧
      (∀ c i, c < s.nch.toNat → i < s.bsize.toNat →
        m.readWord (unitStride (Region.csb.base c) i) =
          floatOf s.fxw.val (s.mem.readWord (unitStride (Region.rx.base s.curSlot.val) (i * s.nch.toNat + c)))) ∧
      (∀ k, (∀ c i, c < s.nch.toNat → i < s.bsize.toNat → k / 4 ≠ (unitStride (Region.csb.base c) i).toNat) →
        m.byteAt k = s.mem.byteAt k)

/-- R221: S3 on a valid chain completes with every channel's window spliced, the job armed and the history captured. -/
def Obligations.StepS3StagesDispatchesCaptures : Prop :=
  ∀ (s : State) (rest : List Turn), s.turns = .orch :: rest → s.phase = .staging →
    1 ≤ s.nch.toNat → s.nch.toNat ≤ 16 → 1 ≤ s.bsize.toNat → s.bsize.toNat ≤ 4096 →
    (∀ c, c < s.nch.toNat → 1 ≤ (s.chan c).taps.toNat ∧ (s.chan c).taps.toNat ≤ 4096) →
    s.accelBusy = false → s.filterDone = false → s.stageAll.chainValid s.firHead = true →
    ∃ m : Memory, step s = .next
        { s with
          turns := rest, mem := m, phase := .dispatched, cp := s.firHead, descLeft := s.nch.toNat, accelBusy := true
          jobCI := (s.stageAll.mem.descriptor s.firHead).ci, jobAI := (s.stageAll.mem.descriptor s.firHead).ai
          lapsLeft := if (s.stageAll.mem.descriptor s.firHead).ai then s.iter else 1 } ∧
      (∀ c, c < s.nch.toNat →
        (∀ i, i < (s.chan c).taps.toNat - 1 →
          m.readWord (unitStride (Region.win.base c) i) = s.mem.readWord (unitStride (Region.hist.base c) i)) ∧
        (∀ j, j < s.bsize.toNat →
          m.readWord (unitStride (Region.win.base c) ((s.chan c).taps.toNat - 1 + j)) =
            s.mem.readWord (unitStride (Region.csb.base c) j)) ∧
        (∀ i, i < (s.chan c).taps.toNat - 1 →
          m.readWord (unitStride (Region.hist.base c) i) =
            m.readWord (unitStride (Region.win.base c) (s.bsize.toNat + i)))) ∧
      (∀ k, (∀ c i, c < s.nch.toNat → i < (s.chan c).taps.toNat - 1 + s.bsize.toNat →
          k / 4 ≠ (unitStride (Region.win.base c) i).toNat) →
        (∀ c i, c < s.nch.toNat → i < (s.chan c).taps.toNat - 1 → k / 4 ≠ (unitStride (Region.hist.base c) i).toNat) →
        m.byteAt k = s.mem.byteAt k)

/-- R221: the failure branches of S3: an overrun abandons the cycle (counted once), an invalid chain halts it in
`DISPATCHED`; neither captures. -/
def Obligations.StepS3FailureBranches : Prop :=
  ∀ (s : State) (rest : List Turn), s.turns = .orch :: rest → s.phase = .staging →
    1 ≤ s.nch.toNat → s.nch.toNat ≤ 16 → 1 ≤ s.bsize.toNat → s.bsize.toNat ≤ 4096 →
    (∀ c, c < s.nch.toNat → 1 ≤ (s.chan c).taps.toNat ∧ (s.chan c).taps.toNat ≤ 4096) →
    (s.accelBusy = true ∨ s.filterDone = true →
      step s = .next
        { s with
          turns := rest, mem := s.stageAll.mem, overrunCount := satInc s.overrunCount, processingActive := false
          phase := .idle }) ∧
    (s.accelBusy = false → s.filterDone = false → s.stageAll.chainValid s.firHead = false →
      step s = .next { s with turns := rest, mem := s.stageAll.mem, cfgError := true, phase := .dispatched })

/-- R223, R215: S5 completes with every sample converted to its place in the transmit slot of the cycle and every saturated
one counted, and emits that slot with the whole block. -/
def Obligations.StepS5EmitsTheBlock : Prop :=
  ∀ (s : State) (rest : List Turn), s.turns = .orch :: rest → s.phase = .emitting →
    1 ≤ s.nch.toNat → s.nch.toNat ≤ 16 → 1 ≤ s.bsize.toNat → s.bsize.toNat ≤ 4096 →
    ∃ (m : Memory) (count : Word) (block : List Word),
      step s = .next
        { s with
          turns := rest, mem := m, satCount := count, processingActive := false, phase := .idle
          emits := s.emits ++ [⟨s.curSlot, block⟩] } ∧
      (∀ c i, c < s.nch.toNat → i < s.bsize.toNat →
        m.readWord (unitStride (Region.tx.base s.curSlot.val) (i * s.nch.toNat + c)) =
          (fixOf s.fxw.val (s.mem.readWord (unitStride (Region.out.base c) i))).1) ∧
      block.length = s.bsize.toNat * s.nch.toNat ∧
      (∀ o, o < s.bsize.toNat * s.nch.toNat →
        block[o]? = some (m.readWord (unitStride (Region.tx.base s.curSlot.val) o))) ∧
      count.toNat = min (2 ^ 32 - 1) (s.satCount.toNat +
        ((List.range s.nch.toNat).map fun c => ((List.range s.bsize.toNat).filter
          fun i => (fixOf s.fxw.val (s.mem.readWord (unitStride (Region.out.base c) i))).2).length).sum) ∧
      s.mem.agreeOutside m (s.bsize.toNat * s.nch.toNat) (unitStride (Region.tx.base s.curSlot.val))

/-! ## The host bus and the registers (`44_host_bus.md`, `10_state.md`) -/

/-- R251: a bus read returns the word of a mapped address, the value of a register, or 0, and changes nothing but
`busFault`, in the last case. -/
def Obligations.BusReadHasNoSideEffect : Prop :=
  ∀ (s : State) (rest : List Turn) (a : Word) (ops : List HostOp),
    s.turns = .host :: rest → s.hostOps = .read a :: ops → s.waitHold = false →
    (mapped a = true →
      step s = .next { s with turns := rest, hostOps := ops, busReads := s.busReads ++ [s.mem.readWord a] }) ∧
    (∀ r, mapped a = false → regAt a = some r →
      step s = .next { s with turns := rest, hostOps := ops, busReads := s.busReads ++ [s.readReg r] }) ∧
    (mapped a = false → regAt a = none →
      step s = .next { s with turns := rest, hostOps := ops, busReads := s.busReads ++ [0], busFault := true })

/-- R42: which register each number names, and no other number any. -/
def Obligations.RegisterMap : Prop :=
  regAt 0xFF000000 = some .ctrl ∧ regAt 0xFF000001 = some .flags ∧ regAt 0xFF000002 = some .phase ∧
  regAt 0xFF000003 = some .nch ∧ regAt 0xFF000004 = some .bsize ∧ regAt 0xFF000005 = some .iter ∧
  regAt 0xFF000006 = some .firHead ∧ regAt 0xFF000007 = some .slot ∧ regAt 0xFF000008 = some .overrunCount ∧
  regAt 0xFF000009 = some .blockCount ∧ regAt 0xFF00000A = some .satCount ∧ regAt 0xFF00000B = some .status ∧
  regAt 0xFF00000C = some .res ∧ regAt 0xFF00000D = some .cmd ∧ regAt 0xFF000010 = some .arg0 ∧
  regAt 0xFF000011 = some .arg1 ∧ regAt 0xFF000012 = some .arg2 ∧ regAt 0xFF000013 = some .arg3 ∧
  (∀ c, c < 16 → regAt (0xFF000020 + BitVec.ofNat 32 c) = some (.chcfg c)) ∧
  (∀ n, n < 0x10000 → (regAt (0xFF000000 + BitVec.ofNat 32 n) = none ↔
    (n = 0x0E ∨ n = 0x0F ∨ (0x14 ≤ n ∧ n ≤ 0x1F) ∨ 0x30 ≤ n))) ∧
  (∀ a : Word, a >>> 16 ≠ 0xFF00 → regAt a = none)

/-- R251, R21 to R24, R31 to R41: what every register reads as: the plain registers their 32 bits, the composed ones bit by
bit. -/
def Obligations.RegisterLayouts : Prop :=
  ∀ s : State,
    s.readReg .flags = (BitVec.ofBool s.protoFault ++ BitVec.ofBool s.busFault ++ BitVec.ofBool s.cfgError ++
      BitVec.ofBool s.accelBusy ++ BitVec.ofBool s.filterDone ++ BitVec.ofBool s.processingActive ++
      BitVec.ofBool s.blockReady).setWidth 32 ∧
    s.readReg .ctrl = (BitVec.ofBool (decide (s.mode = .liveStreaming)) ++ BitVec.ofBool s.run).setWidth 32 ∧
    s.readReg .slot = BitVec.ofNat 32 (2 * s.curSlot.val + s.rxSlot.val) ∧
    s.readReg .phase = (match s.phase with | .idle => 0 | .converting => 1 | .staging => 2 | .dispatched => 3 | .emitting => 4) ∧
    s.readReg .status = (match s.status with
      | .ok => 0 | .errIllegal => 1 | .errBusy => 2 | .errConfig => 3 | .errOverrun => 4 | .errBus => 5 | .errNoJob => 6) ∧
    s.readReg .cmd = 0 ∧
    s.readReg .arg0 = s.arg0 ∧ s.readReg .arg1 = s.arg1 ∧ s.readReg .arg2 = s.arg2 ∧ s.readReg .arg3 = s.arg3 ∧
    s.readReg .res = s.res ∧ s.readReg .nch = s.nch ∧ s.readReg .bsize = s.bsize ∧ s.readReg .iter = s.iter ∧
    s.readReg .firHead = s.firHead ∧ s.readReg .overrunCount = s.overrunCount ∧
    s.readReg .blockCount = s.blockCount ∧ s.readReg .satCount = s.satCount ∧
    (∀ (c : Nat) (_ : c < Config.maxCh),
      s.readReg (.chcfg c) = BitVec.ofBool s.chcfg[c].configured ++ 0#15 ++ s.chcfg[c].taps ∧ s.chan c = s.chcfg[c])

/-- R252, R44: a bus write that does not go to `CMD`, in each of its cases: memory, `ARG` registers, gated registers,
read-only registers, unmapped addresses. -/
def Obligations.BusWriteCases : Prop :=
  ∀ (s : State) (rest : List Turn) (a w : Word) (ops : List HostOp),
    s.turns = .host :: rest → s.hostOps = .write a w :: ops → s.waitHold = false →
    (mapped a = true → ∃ m : Memory, step s = .next { s with turns := rest, hostOps := ops, mem := m } ∧
      m.readWord a = w ∧ s.mem.agreeOutside m 1 (fun _ => a)) ∧
    (a = 0xFF000010 → step s = .next { s with turns := rest, hostOps := ops, arg0 := w }) ∧
    (a = 0xFF000011 → step s = .next { s with turns := rest, hostOps := ops, arg1 := w }) ∧
    (a = 0xFF000012 → step s = .next { s with turns := rest, hostOps := ops, arg2 := w }) ∧
    (a = 0xFF000013 → step s = .next { s with turns := rest, hostOps := ops, arg3 := w }) ∧
    (s.run = true ∨ s.accelBusy = true →
      a = 0xFF000000 ∨ a = 0xFF000003 ∨ a = 0xFF000004 ∨ a = 0xFF000005 ∨ a = 0xFF000006 →
      step s = .next { s with turns := rest, hostOps := ops }) ∧
    (s.run = false → s.accelBusy = false →
      (a = 0xFF000000 → step s = .next
        { s with turns := rest, hostOps := ops, mode := if w.getLsbD 1 then .liveStreaming else .offlineValidation }) ∧
      (a = 0xFF000003 → step s = .next { s with turns := rest, hostOps := ops, nch := w }) ∧
      (a = 0xFF000004 → step s = .next { s with turns := rest, hostOps := ops, bsize := w }) ∧
      (a = 0xFF000005 → step s = .next { s with turns := rest, hostOps := ops, iter := w }) ∧
      (a = 0xFF000006 → step s = .next { s with turns := rest, hostOps := ops, firHead := w })) ∧
    (a = 0xFF000001 ∨ a = 0xFF000002 ∨ (∃ n, 7 ≤ n ∧ n ≤ 12 ∧ a = 0xFF000000 + BitVec.ofNat 32 n) ∨
        (∃ c, c < 16 ∧ a = 0xFF000020 + BitVec.ofNat 32 c) →
      step s = .next { s with turns := rest, hostOps := ops }) ∧
    (mapped a = false → regAt a = none → step s = .next { s with turns := rest, hostOps := ops, busFault := true })

/-- `20_memory.md` R71, R77: the mapped addresses are the offsets within the capacity of the listed regions' units, and where
each buffer starts: its constructor's value, and element `i` at that value plus `i`. -/
def Obligations.MappedIsTheAddressMap : Prop :=
  (∀ u : Nat,
    Region.rx.base u = 0x01000000 + BitVec.ofNat 32 (u * 0x10000) ∧
    Region.tx.base u = 0x02000000 + BitVec.ofNat 32 (u * 0x10000) ∧
    Region.csb.base u = 0x03000000 + BitVec.ofNat 32 (u * 0x10000) ∧
    Region.win.base u = 0x04000000 + BitVec.ofNat 32 (u * 0x10000) ∧
    Region.hist.base u = 0x05000000 + BitVec.ofNat 32 (u * 0x10000) ∧
    Region.out.base u = 0x06000000 + BitVec.ofNat 32 (u * 0x10000) ∧
    Region.coef.base u = 0x07000000 + BitVec.ofNat 32 (u * 0x10000) ∧
    Region.desc.base u = 0x08000000 + BitVec.ofNat 32 (u * 0x10000) ∧
    regAddr u = 0xFF000000 + BitVec.ofNat 32 u) ∧
  (∀ (a : Word) (i : Nat), unitStride a i = a + BitVec.ofNat 32 i) ∧
  ∀ region unit offset : Nat, region < 256 → unit < 256 → offset < 65536 →
    (mapped (BitVec.ofNat 32 (region * 2 ^ 24 + unit * 2 ^ 16 + offset)) = true ↔
      ((region = 1 ∨ region = 2) ∧ unit < 2) ∨ (region = 3 ∧ unit < 16 ∧ offset < 4096) ∨
      (region = 4 ∧ unit < 16 ∧ offset < 8191) ∨ (region = 5 ∧ unit < 16 ∧ offset < 4095) ∨
      (region = 6 ∧ unit < 16 ∧ offset < 4096) ∨ (region = 7 ∧ unit < 16 ∧ offset < 4096) ∨
      (region = 8 ∧ unit < 16 ∧ offset < 9))

/-! ## Reset (`10_state.md` R56, `70_reset_and_hazards.md` R310) -/

/-- R56, for the hardware reset event and for the state after power-on: every register and hidden element has the value of
the table; by `70_reset_and_hazards.md` R310 the reset event leaves data memory as it was (for R56's own line on memory see
assumption log 12), no unit has an enabled step, the output event stream is empty and a `DELIVER` is masked. -/
def Obligations.ResetValues : Prop :=
  ∀ (s : State) (rest : List Turn), s.turns = .reset :: rest →
    ∃ t : State, step s = .next t ∧ t.mem = s.mem ∧ ∀ u : State, u = t ∨ u = State.reset →
      u.arg0 = 0 ∧ u.arg1 = 0 ∧ u.arg2 = 0 ∧ u.arg3 = 0 ∧ u.status.code = 0 ∧ u.res = 0 ∧ u.phase = .idle ∧
      u.cp = 0 ∧ u.descLeft = 0 ∧ u.lapsLeft = 0 ∧ u.jobCI = false ∧ u.jobAI = false ∧ u.flagsWord = 0 ∧
      u.run = false ∧ u.mode = .offlineValidation ∧ u.nch = 0 ∧ u.bsize = 0 ∧ u.iter = 1 ∧ u.firHead = 0x08000000 ∧
      u.rxSlot = 0 ∧ u.curSlot = 0 ∧ u.overrunCount = 0 ∧ u.blockCount = 0 ∧ u.satCount = 0 ∧
      (∀ c, u.chan c = ⟨0, false⟩) ∧ u.orchEnabled = none ∧ u.accelBusy = false ∧ u.transportEnable = false ∧
      u.emits = [] ∧ ∀ a g : Nat, u.deliver a g = u

/-! ## Rules of the whole machine -/

/-- `00_scope.md` glossary, `10_state.md` R30: a sticky bit, once set, stays set through every step but a hardware reset. -/
def Obligations.StickyBitsStaySet : Prop :=
  ∀ s t : State, step s = .next t → s.turns.head? ≠ some .reset →
    (s.cfgError = true → t.cfgError = true) ∧ (s.busFault = true → t.busFault = true) ∧
      (s.protoFault = true → t.protoFault = true)

/-- R38 to R40: no step but a hardware reset takes a counter back. -/
def Obligations.CountersAreMonotonic : Prop :=
  ∀ s t : State, step s = .next t → s.turns.head? ≠ some .reset →
    s.overrunCount.toNat ≤ t.overrunCount.toNat ∧ s.blockCount.toNat ≤ t.blockCount.toNat ∧
      s.satCount.toNat ≤ t.satCount.toNat

/-- R21: no command and no step of another agent writes an `ARG` register; only the host's own bus write and hardware reset
do. -/
def Obligations.OnlyBusWritesChangeArguments : Prop :=
  (∀ (i : Instr) (s t : State), exec i s = .next t →
    t.arg0 = s.arg0 ∧ t.arg1 = s.arg1 ∧ t.arg2 = s.arg2 ∧ t.arg3 = s.arg3) ∧
  (∀ s t : State, step s = .next t →
    s.turns.head? = some .orch ∨ s.turns.head? = some .accel ∨ s.turns.head? = some .transport →
    t.arg0 = s.arg0 ∧ t.arg1 = s.arg1 ∧ t.arg2 = s.arg2 ∧ t.arg3 = s.arg3 ∧ t.status = s.status ∧ t.res = s.res)

/-- `44_host_bus.md` R259, `43_orchestrator.md` R218: every step but a hardware reset leaves `PHASE` or moves it along an arrow of the state machine, the offline entry, the S4V return or the abandon return. -/
def Obligations.PhaseMovesAlongTheArrows : Prop :=
  ∀ s t : State, step s = .next t → s.turns.head? ≠ some .reset → t.phase ≠ s.phase →
    (s.phase, t.phase) ∈ [(Phase.idle, Phase.converting), (.converting, .staging), (.staging, .dispatched),
      (.dispatched, .emitting), (.emitting, .idle), (.idle, .dispatched), (.dispatched, .idle), (.staging, .idle)]

/-- R210: `START` is the only way to set `CTRL.RUN`. -/
def Obligations.OnlyStartSetsRun : Prop :=
  ∀ s t : State, step s = .next t → s.run = false → t.run = true →
    s.turns.head? = some .host ∧ s.waitHold = false ∧
      ∃ a, regAt a = some .cmd ∧ s.hostOps.head? = some (.write a 0x40000000)

/-! ## Invariants -/

/-- The state after reset meets the invariant. -/
def Obligations.ResetMeetsTheInvariant : Prop := State.reset.Inv

/-- Every step keeps the invariant: the memory's form and map (R76), I1 to I5 (R226), a legal job, legal tap counts and the
geometry of a live run (R257 (f), R138). -/
def Obligations.StepKeepsTheInvariant : Prop :=
  ∀ s t : State, s.Inv → step s = .next t → t.Inv

/-- R76: from a state of the invariant the machine never stops: however many steps are taken, under whatever schedule, host
program and transport, there is a next state, and it meets the invariant. -/
def Obligations.RunsNeverStop : Prop :=
  ∀ (n : Nat) (s : State), s.Inv → ∃ t : State, Sys2Proof.core.run n s = .next t ∧ t.Inv

/-- R226: I1 to I6 hold in every state reachable from reset, under every schedule, every host program, every behaviour of
the transport (`93_implementation_defined.md` U4 asks for a contract-keeping one only) and every `FXW`. (R226 is derived in
the spec, from the step rules.) -/
def Obligations.ReachableStatesSatisfyI1ToI6 : Prop :=
  ∀ (fxw : Config.FxWidth) (turns : List Turn) (hostOps : List HostOp) (transportOps : List TransportOp) (n : Nat),
    ∃ t : State,
      Sys2Proof.core.run n
        { State.reset with fxw := fxw, turns := turns, hostOps := hostOps, transportOps := transportOps } = .next t ∧
      (t.processingActive = true ↔ t.phase ≠ .idle) ∧
      (t.run = false → t.phase = .idle) ∧
      (t.run = true → t.accelBusy = true → t.phase = .dispatched) ∧
      (t.run = true → t.filterDone = true → t.phase = .dispatched) ∧
      ¬ (t.accelBusy = true ∧ t.filterDone = true) ∧
      t.phase.code.toNat ≤ 4

/-- R214, `70_reset_and_hazards.md` R322: as long as the transport keeps its contract, every step keeps the slots apart: a
pending block, and the block of a cycle during which nothing was delivered, are not in the slot being filled. (After a
delivery during the cycle the transport does fill the cycle's slot: R320.) -/
def Obligations.ContractKeepsTheSlotsApart : Prop :=
  State.reset.SlotsApart ∧
    ∀ s t : State, s.Inv → s.SlotsApart → s.transportBehaves → step s = .next t → t.SlotsApart

/-- R322: before S2 of a cycle in which nothing was delivered, a contract-keeping transport's step leaves every word of the
receive slot to be read as it was. (After a delivery during the cycle it may not: R320.) -/
def Obligations.TransportLeavesTheSlotBeingReadAlone : Prop :=
  ∀ (s t : State) (rest : List Turn), s.Inv → s.SlotsApart → s.transportBehaves → s.turns = .transport :: rest →
    s.phase = .converting → s.mode = .liveStreaming → s.blockReady = false → step s = .next t →
    ∀ o, o < 65536 →
      t.mem.readWord (unitStride (Region.rx.base s.curSlot.val) o) =
        s.mem.readWord (unitStride (Region.rx.base s.curSlot.val) o)
end

