-- ==== Sys2Proof/Laws/Loops.lean ====
section
/-! SUPPORT. What the two loops do: `allBelow` decides a bounded statement, `iterUp` runs ascending. -/

namespace Sys2Proof.Machine

theorem allBelow_iff (n : Nat) (p : Nat → Bool) : allBelow n p = true ↔ ∀ i, i < n → p i = true := by
  induction n with
  | zero => simp [allBelow]
  | succ n ih =>
    simp only [allBelow, Bool.and_eq_true, ih]
    constructor
    · rintro ⟨h, hs⟩ i hi
      rcases Nat.lt_succ_iff_lt_or_eq.mp hi with hi | rfl
      · exact hs i hi
      · exact h
    · exact fun h => ⟨h n (Nat.lt_succ_self n), fun i hi => h i (Nat.lt_succ_of_lt hi)⟩

theorem allBelow_eq_false_iff (n : Nat) (p : Nat → Bool) : allBelow n p = false ↔ ∃ i, i < n ∧ p i = false := by
  rw [← Bool.not_eq_true, allBelow_iff]
  simp

@[simp] theorem iterUp_zero {α : Type} (f : Nat → α → α) (a : α) : iterUp 0 f a = a := rfl

theorem iterUp_succ {α : Type} (n : Nat) (f : Nat → α → α) (a : α) : iterUp (n + 1) f a = f n (iterUp n f a) := rfl

/-- What every pass of a loop keeps, the loop keeps. -/
theorem iterUp_keeps {α : Type} (P : α → Prop) (n : Nat) (f : Nat → α → α) (a : α) (h : P a)
    (hf : ∀ i x, i < n → P x → P (f i x)) : P (iterUp n f a) := by
  induction n with
  | zero => exact h
  | succ n ih => exact hf n _ (Nat.lt_succ_self n) (ih fun i x hi => hf i x (Nat.lt_succ_of_lt hi))

/-- A loop invariant indexed by the passes done. -/
theorem iterUp_induction {α : Type} (P : Nat → α → Prop) (n : Nat) (f : Nat → α → α) (a : α) (h : P 0 a)
    (hf : ∀ i x, i < n → P i x → P (i + 1) (f i x)) : P n (iterUp n f a) := by
  induction n with
  | zero => exact h
  | succ n ih => exact hf n _ (Nat.lt_succ_self n) (ih fun i x hi => hf i x (Nat.lt_succ_of_lt hi))

/-- Two loops whose passes agree on what each is given agree. -/
theorem iterUp_congr {α : Type} (n : Nat) (f g : Nat → α → α) (a : α) (h : ∀ i x, i < n → f i x = g i x) :
    iterUp n f a = iterUp n g a := by
  induction n with
  | zero => rfl
  | succ n ih =>
    rw [iterUp_succ, iterUp_succ, ih fun i x hi => h i x (Nat.lt_succ_of_lt hi), h n _ (Nat.lt_succ_self n)]

end Sys2Proof.Machine
end

