-- ==== Sys2Proof/Laws/Memory.lean ====
section
/-! SUPPORT. Data memory: a read after a write, the bytes a write leaves alone, and the canonical form. -/

namespace Sys2Proof.Machine

@[simp] theorem Memory.byteAt_nil (k : Nat) : Memory.byteAt [] k = none := rfl

theorem Memory.byteAt_cons (k' : Nat) (b : Byte) (rest : Memory) (k : Nat) :
    Memory.byteAt ((k', b) :: rest) k = if k' = k then some b else Memory.byteAt rest k := rfl

/-- A byte write is seen at its own position and nowhere else. -/
theorem Memory.byteAt_setByte (m : Memory) (k : Nat) (b : Byte) (j : Nat) :
    (m.setByte k b).byteAt j = if k = j then some b else m.byteAt j := by
  induction m with
  | nil => rfl
  | cons c rest ih =>
    obtain ⟨k', b'⟩ := c
    simp only [Memory.setByte]
    by_cases h1 : k < k'
    · simp only [if_pos h1, Memory.byteAt_cons]
    · by_cases h2 : k = k'
      · subst h2
        simp only [if_neg h1, if_true, Memory.byteAt_cons]
        split_ifs <;> rfl
      · simp only [if_neg h1, if_neg h2, Memory.byteAt_cons, ih]
        by_cases h3 : k = j
        · rw [if_pos h3, if_pos h3, if_neg (by omega)]
        · rw [if_neg h3, if_neg h3]

/-- A word is its four bytes. -/
theorem word_of_bytes (v : Word) :
    v.extractLsb' 24 8 ++ v.extractLsb' 16 8 ++ v.extractLsb' 8 8 ++ v.extractLsb' 0 8 = v := by
  apply BitVec.eq_of_getLsbD_eq
  intro i hi
  have h : i < 8 ∨ 8 ≤ i ∧ i < 16 ∨ 16 ≤ i ∧ i < 24 ∨ 24 ≤ i ∧ i < 32 := by omega
  simp only [BitVec.getLsbD_append, BitVec.getLsbD_extractLsb']
  rcases h with h | h | h | h
  · simp [show i < 8 by omega]
  · simp [show ¬ i < 8 by omega, show i - 8 < 8 by omega, show 8 + (i - 8) = i by omega]
  · simp [show ¬ i < 8 by omega, show ¬ i - 8 < 8 by omega, show i - 8 - 8 < 8 by omega,
      show 16 + (i - 8 - 8) = i by omega]
  · simp [show ¬ i < 8 by omega, show ¬ i - 8 < 8 by omega, show ¬ i - 8 - 8 < 8 by omega,
      show i - 8 - 8 - 8 < 8 by omega, show 24 + (i - 8 - 8 - 8) = i by omega]

/-- The four positions of a word. -/
theorem Memory.byteAt_writeWord (m : Memory) (a v : Word) (j : Nat) :
    (m.writeWord a v).byteAt j =
      if j / 4 = a.toNat then some (v.extractLsb' (8 * (j % 4)) 8) else m.byteAt j := by
  simp only [Memory.writeWord, Memory.byteAt_setByte]
  by_cases h : j / 4 = a.toNat
  · have hj : j = 4 * a.toNat + j % 4 := by omega
    have h4 : j % 4 = 0 ∨ j % 4 = 1 ∨ j % 4 = 2 ∨ j % 4 = 3 := by omega
    rw [if_pos h]
    rcases h4 with h4 | h4 | h4 | h4 <;> rw [h4] at hj ⊢ <;> subst hj <;> simp
  · rw [if_neg h, if_neg (by omega), if_neg (by omega), if_neg (by omega), if_neg (by omega)]

/-- A word write leaves the bytes of every other word alone. -/
theorem Memory.byteAt_writeWord_of_ne (m : Memory) (a v : Word) (j : Nat) (h : j / 4 ≠ a.toNat) :
    (m.writeWord a v).byteAt j = m.byteAt j := by
  rw [Memory.byteAt_writeWord, if_neg h]

/-- Memories that agree on the bytes of a word agree on the word. -/
theorem Memory.readWord_congr (m m' : Memory) (a : Word) (h : ∀ j, j / 4 = a.toNat → m.byteAt j = m'.byteAt j) :
    m.readWord a = m'.readWord a := by
  simp only [Memory.readWord, Memory.readByte]
  rw [h _ (by omega), h _ (by omega), h _ (by omega), h _ (by omega)]

/-- Reading what was just written. -/
@[simp] theorem Memory.readWord_writeWord_self (m : Memory) (a v : Word) : (m.writeWord a v).readWord a = v := by
  simp only [Memory.readWord, Memory.readByte, Memory.byteAt_writeWord]
  rw [if_pos (by omega), if_pos (by omega), if_pos (by omega), if_pos (by omega)]
  have e1 : (4 * a.toNat + 3) % 4 = 3 := by omega
  have e2 : (4 * a.toNat + 2) % 4 = 2 := by omega
  have e3 : (4 * a.toNat + 1) % 4 = 1 := by omega
  have e4 : (4 * a.toNat) % 4 = 0 := by omega
  rw [e1, e2, e3, e4]
  exact word_of_bytes v

/-- A word write leaves every other word alone. -/
theorem Memory.readWord_writeWord_of_ne (m : Memory) (a v b : Word) (h : a ≠ b) :
    (m.writeWord a v).readWord b = m.readWord b := by
  apply Memory.readWord_congr
  intro j hj
  apply Memory.byteAt_writeWord_of_ne
  intro hj'
  exact h (BitVec.eq_of_toNat_eq (by omega))

theorem Memory.readWord_writeWord (m : Memory) (a v b : Word) :
    (m.writeWord a v).readWord b = if a = b then v else m.readWord b := by
  split_ifs with h
  · subst h; simp
  · exact Memory.readWord_writeWord_of_ne m a v b h

/-! ## The canonical form -/

theorem Memory.wf_cons (c : Host.Cell) (m : Memory) :
    Memory.wf (c :: m) = true ↔ Memory.wf m = true ∧ ∀ d ∈ m.head?, c.1 < d.1 := by
  cases m with
  | nil => simp [Memory.wf]
  | cons d rest => simp [Memory.wf, and_comm]

/-- The first position of a list after a byte write. -/
theorem Memory.head_setByte (m : Memory) (k : Nat) (b : Byte) :
    ∀ d ∈ (m.setByte k b).head?, d.1 = k ∨ d ∈ m.head? := by
  cases m with
  | nil => simp [Memory.setByte]
  | cons c rest =>
    obtain ⟨k', b'⟩ := c
    simp only [Memory.setByte]
    split_ifs <;> simp

/-- A byte write keeps the canonical form. -/
theorem Memory.wf_setByte (m : Memory) (k : Nat) (b : Byte) (h : m.wf = true) : (m.setByte k b).wf = true := by
  induction m with
  | nil => rfl
  | cons c rest ih =>
    obtain ⟨k', b'⟩ := c
    have h' := (Memory.wf_cons (k', b') rest).mp h
    simp only [Memory.setByte]
    split_ifs with h1 h2
    · exact (Memory.wf_cons _ _).mpr ⟨h, by simpa using h1⟩
    · exact (Memory.wf_cons _ _).mpr ⟨h'.1, by subst h2; exact h'.2⟩
    · refine (Memory.wf_cons _ _).mpr ⟨ih h'.1, fun d hd => ?_⟩
      rcases Memory.head_setByte rest k b d hd with hd | hd
      · simp only [hd]; omega
      · exact h'.2 d hd

/-- A word write keeps the canonical form. -/
theorem Memory.wf_writeWord (m : Memory) (a v : Word) (h : m.wf = true) : (m.writeWord a v).wf = true :=
  Memory.wf_setByte _ _ _ (Memory.wf_setByte _ _ _ (Memory.wf_setByte _ _ _ (Memory.wf_setByte _ _ _ h)))

/-- In canonical form every listed position is beyond the first. -/
theorem Memory.lt_of_wf (c : Host.Cell) (m : Memory) (h : Memory.wf (c :: m) = true) : ∀ d ∈ m, c.1 < d.1 := by
  induction m generalizing c with
  | nil => simp
  | cons e rest ih =>
    have h' := (Memory.wf_cons c (e :: rest)).mp h
    have hlt : c.1 < e.1 := h'.2 e (by simp)
    intro d hd
    rcases List.mem_cons.mp hd with rfl | hd
    · exact hlt
    · exact hlt.trans (ih e h'.1 d hd)

theorem Memory.byteAt_none_of_lt (m : Memory) (k : Nat) (h : ∀ d ∈ m, k < d.1) : m.byteAt k = none := by
  induction m with
  | nil => rfl
  | cons c rest ih =>
    obtain ⟨k', b'⟩ := c
    have hk : k < k' := h (k', b') (by simp)
    rw [Memory.byteAt_cons, if_neg (by omega)]
    exact ih fun d hd => h d (by simp [hd])

/-- A listed byte, by membership. -/
theorem Memory.mem_iff_byteAt (m : Memory) (h : m.wf = true) (k : Nat) (b : Byte) :
    (k, b) ∈ m ↔ m.byteAt k = some b := by
  induction m with
  | nil => simp
  | cons c rest ih =>
    obtain ⟨k', b'⟩ := c
    have hlt := Memory.lt_of_wf _ _ h
    have ih := ih ((Memory.wf_cons _ _).mp h).1
    rw [Memory.byteAt_cons, List.mem_cons]
    split_ifs with hk
    · subst hk
      constructor
      · rintro (h | h)
        · simp_all
        · exact absurd (hlt _ h) (by simp)
      · intro h; simp_all
    · rw [← ih]
      constructor
      · rintro (h | h)
        · simp_all
        · exact h
      · exact Or.inr

/-- The other positions a byte write lists were listed before. -/
theorem Memory.mem_setByte (m : Memory) (k : Nat) (b : Byte) (c : Host.Cell) (h : c ∈ m.setByte k b) :
    c.1 = k ∨ c ∈ m := by
  induction m with
  | nil => simp_all [Memory.setByte]
  | cons d rest ih =>
    obtain ⟨k', b'⟩ := d
    simp only [Memory.setByte] at h
    split_ifs at h <;> simp only [List.mem_cons] at h ⊢ <;> aesop

/-- The positions a word write lists beyond those of its own word were listed before. -/
theorem Memory.mem_writeWord (m : Memory) (a v : Word) (c : Host.Cell) (h : c ∈ m.writeWord a v) :
    c.1 / 4 = a.toNat ∨ c ∈ m := by
  rcases Memory.mem_setByte _ _ _ _ h with h | h
  · left; omega
  rcases Memory.mem_setByte _ _ _ _ h with h | h
  · left; omega
  rcases Memory.mem_setByte _ _ _ _ h with h | h
  · left; omega
  rcases Memory.mem_setByte _ _ _ _ h with h | h
  · left; omega
  · exact Or.inr h

/-- Memories in canonical form that hold the same bytes are the same data. -/
theorem Memory.eq_of_byteAt (m m' : Memory) (h : m.wf = true) (h' : m'.wf = true)
    (he : ∀ k, m.byteAt k = m'.byteAt k) : m = m' := by
  induction m generalizing m' with
  | nil =>
    cases m' with
    | nil => rfl
    | cons c rest =>
      have := he c.1
      simp [Memory.byteAt] at this
  | cons c rest ih =>
    cases m' with
    | nil =>
      have := he c.1
      simp [Memory.byteAt] at this
    | cons d rest' =>
      obtain ⟨k, b⟩ := c
      obtain ⟨k', b'⟩ := d
      have hlt := Memory.lt_of_wf _ _ h
      have hlt' := Memory.lt_of_wf _ _ h'
      have hn := Memory.byteAt_none_of_lt rest k hlt
      have hn' := Memory.byteAt_none_of_lt rest' k' hlt'
      have hkk : k = k' := by
        rcases Nat.lt_trichotomy k k' with hk | hk | hk
        · have e := he k
          rw [Memory.byteAt_cons, if_pos rfl, Memory.byteAt_cons, if_neg (by omega),
            Memory.byteAt_none_of_lt rest' k fun d hd => hk.trans (hlt' d hd)] at e
          simp at e
        · exact hk
        · have e := he k'
          rw [Memory.byteAt_cons, if_neg (by omega), Memory.byteAt_cons, if_pos rfl,
            Memory.byteAt_none_of_lt rest k' fun d hd => hk.trans (hlt d hd)] at e
          simp at e
      subst hkk
      have hb := he k
      rw [Memory.byteAt_cons, if_pos rfl, Memory.byteAt_cons, if_pos rfl] at hb
      have hrest : rest = rest' := by
        apply ih rest' ((Memory.wf_cons _ _).mp h).1 ((Memory.wf_cons _ _).mp h').1
        intro j
        have e := he j
        rw [Memory.byteAt_cons, Memory.byteAt_cons] at e
        by_cases hj : k = j
        · subst hj; rw [hn, hn']
        · rwa [if_neg hj, if_neg hj] at e
      rw [hrest, Option.some.inj hb]

end Sys2Proof.Machine
end

