-- ==== Sys2Proof/Laws/Address.lean ====
section
/-! SUPPORT. The address map: which offsets of a unit's buffer are mapped, and that different buffers share no address. -/

namespace Sys2Proof.Machine

theorem addrRegion_eq (a : Word) : addrRegion a = a.toNat / 0x1000000 := by
  simp only [addrRegion, BitVec.extractLsb'_toNat, Nat.shiftRight_eq_div_pow]
  have := a.isLt
  omega

theorem addrUnit_eq (a : Word) : addrUnit a = a.toNat / 0x10000 % 256 := by
  simp only [addrUnit, BitVec.extractLsb'_toNat, Nat.shiftRight_eq_div_pow]

theorem addrOffset_eq (a : Word) : addrOffset a = a.toNat % 0x10000 := by
  simp only [addrOffset, BitVec.extractLsb'_toNat, Nat.shiftRight_eq_div_pow]
  omega

theorem Region.code_range (r : Region) : 1 ≤ r.code ∧ r.code ≤ 8 := by cases r <;> decide

theorem Region.ofCode_code (r : Region) : Region.ofCode r.code = some r := by cases r <;> rfl

theorem Region.code_inj (r r' : Region) (h : r.code = r'.code) : r = r' := by
  have := congrArg Region.ofCode h
  rw [Region.ofCode_code, Region.ofCode_code] at this
  exact Option.some.inj this

theorem Region.units_le (r : Region) : r.units ≤ 16 := by cases r <;> decide

theorem Region.capacity_le (r : Region) : r.capacity ≤ 65536 := by cases r <;> decide

/-! ### The three fields of an address, as arithmetic -/

theorem address_sum (c u i : Nat) (_hc : c ≤ 8) (hu : u < 256) (hi : i < 0x10000) :
    ((c * 0x1000000 + u * 0x10000) % 2 ^ 32 + i % 2 ^ 32) % 2 ^ 32 = c * 0x1000000 + u * 0x10000 + i := by omega

theorem address_region (c u i : Nat) (hu : u < 256) (hi : i < 0x10000) :
    (c * 0x1000000 + u * 0x10000 + i) / 0x1000000 = c := by omega

theorem address_unit (c u i : Nat) (hu : u < 256) (hi : i < 0x10000) :
    (c * 0x1000000 + u * 0x10000 + i) / 0x10000 % 256 = u := by omega

theorem address_offset (c u i : Nat) (hi : i < 0x10000) : (c * 0x1000000 + u * 0x10000 + i) % 0x10000 = i := by omega

theorem address_inj (c c' u u' i i' : Nat) (hu : u < 256) (hu' : u' < 256) (hi : i < 0x10000) (hi' : i' < 0x10000)
    (h : c * 0x1000000 + u * 0x10000 + i = c' * 0x1000000 + u' * 0x10000 + i') : c = c' ∧ u = u' ∧ i = i' := by
  omega

theorem Region.base_toNat (r : Region) (u : Nat) :
    (r.base u).toNat = (r.code * 0x1000000 + u * 0x10000) % 2 ^ 32 := by
  rw [Region.base, BitVec.toNat_ofNat]

theorem unitStride_toNat (a : Word) (i : Nat) : (unitStride a i).toNat = (a.toNat + i % 2 ^ 32) % 2 ^ 32 := by
  rw [unitStride, BitVec.toNat_add, BitVec.toNat_ofNat]

/-- The address of an offset of a buffer, as a number. -/
theorem Region.toNat_base (r : Region) (u i : Nat) (hu : u < 256) (hi : i < 0x10000) :
    (unitStride (r.base u) i).toNat = r.code * 0x1000000 + u * 0x10000 + i := by
  rw [unitStride_toNat, Region.base_toNat, address_sum _ _ _ r.code_range.2 hu hi]

theorem mapped_eq (a : Word) (r : Region) (h : Region.ofCode (addrRegion a) = some r) :
    mapped a = (decide (addrUnit a < r.units) && decide (addrOffset a < r.capacity)) := by
  unfold mapped
  rw [h]

/-- An offset below the capacity of a unit's buffer is mapped (`20_memory.md` R71). -/
theorem Region.mapped_base (r : Region) (u i : Nat) (hu : u < r.units) (hi : i < r.capacity) :
    mapped (unitStride (r.base u) i) = true := by
  have hu' : u < 256 := lt_of_lt_of_le hu (r.units_le.trans (by decide))
  have hi' : i < 0x10000 := lt_of_lt_of_le hi r.capacity_le
  have e := r.toNat_base u i hu' hi'
  have e1 : addrRegion (unitStride (r.base u) i) = r.code :=
    (addrRegion_eq _).trans ((congrArg (· / 0x1000000) e).trans (address_region _ _ _ hu' hi'))
  have e2 : addrUnit (unitStride (r.base u) i) = u :=
    (addrUnit_eq _).trans ((congrArg (· / 0x10000 % 256) e).trans (address_unit _ _ _ hu' hi'))
  have e3 : addrOffset (unitStride (r.base u) i) = i :=
    (addrOffset_eq _).trans ((congrArg (· % 0x10000) e).trans (address_offset _ _ _ hi'))
  rw [mapped_eq _ r (by rw [e1, Region.ofCode_code]), e2, e3, decide_eq_true hu, decide_eq_true hi]
  rfl

/-- Offsets of two buffers name the same address only if the buffers and the offsets are the same. -/
theorem Region.base_inj (r r' : Region) (u u' i i' : Nat) (hu : u < 256) (hu' : u' < 256) (hi : i < 0x10000)
    (hi' : i' < 0x10000) (h : unitStride (r.base u) i = unitStride (r'.base u') i') : r = r' ∧ u = u' ∧ i = i' := by
  have e := congrArg BitVec.toNat h
  rw [r.toNat_base u i hu hi, r'.toNat_base u' i' hu' hi'] at e
  have hc := address_inj _ _ _ _ _ _ hu hu' hi hi' e
  exact ⟨r.code_inj r' hc.1, hc.2⟩

theorem unitStride_zero (a : Word) : unitStride a 0 = a := by simp [unitStride]

theorem unitStride_unitStride (a : Word) (i j : Nat) : unitStride (unitStride a i) j = unitStride a (i + j) := by
  simp only [unitStride, BitVec.add_assoc, BitVec.ofNat_add]

theorem unitStride_succ (a : Word) (i : Nat) : unitStride (a + 1) i = unitStride a (i + 1) := by
  have h : a + 1 = unitStride a 1 := rfl
  rw [h, unitStride_unitStride, Nat.add_comm]

/-- Consecutive addresses, fewer than `2^32`, are different. -/
theorem unitStride_inj (a : Word) (i j : Nat) (hi : i < 2 ^ 32) (hj : j < 2 ^ 32)
    (h : unitStride a i = unitStride a j) : i = j := by
  have h' := congrArg BitVec.toNat (BitVec.add_right_inj a |>.mp h)
  rwa [BitVec.toNat_ofNat, BitVec.toNat_ofNat, Nat.mod_eq_of_lt hi, Nat.mod_eq_of_lt hj] at h'

theorem mappedRange_iff (a : Word) (n : Nat) : mappedRange a n = true ↔ ∀ i, i < n → mapped (unitStride a i) = true :=
  allBelow_iff n _

/-- A run of offsets inside the capacity of a unit's buffer is mapped. -/
theorem Region.mappedRange_base (r : Region) (u n : Nat) (hu : u < r.units) (hn : n ≤ r.capacity) :
    mappedRange (r.base u) n = true :=
  (mappedRange_iff _ _).mpr fun i hi => r.mapped_base u i hu (by omega)

end Sys2Proof.Machine
end

