-- ==== Sys2Proof/Laws/Units.lean ====
section
/-! SUPPORT. What the unit functions do to memory: one set of lemmas for a loop of word writes, and each unit function as
such a loop. -/

namespace Sys2Proof.Machine

/-! ## A loop of word writes -/

/-- The bytes that a loop of word writes leaves alone. -/
theorem writeLoop_byteAt (n : Nat) (addr : Nat → Word) (val : Nat → Memory → Word) (m : Memory) (k : Nat)
    (h : ∀ i, i < n → k / 4 ≠ (addr i).toNat) :
    (iterUp n (fun i m => m.writeWord (addr i) (val i m)) m).byteAt k = m.byteAt k :=
  iterUp_keeps (fun x => x.byteAt k = m.byteAt k) n _ m rfl fun i x hi hx => by
    rw [Memory.byteAt_writeWord_of_ne _ _ _ _ (h i hi), hx]

/-- The words that a loop of word writes leaves alone. -/
theorem writeLoop_readWord_of_ne (n : Nat) (addr : Nat → Word) (val : Nat → Memory → Word) (m : Memory) (b : Word)
    (h : ∀ i, i < n → addr i ≠ b) : (iterUp n (fun i m => m.writeWord (addr i) (val i m)) m).readWord b = m.readWord b :=
  iterUp_keeps (fun x => x.readWord b = m.readWord b) n _ m rfl fun i x hi hx => by
    rw [Memory.readWord_writeWord_of_ne _ _ _ _ (h i hi), hx]

/-- A word that pass `i` writes and no later pass writes holds what pass `i` wrote. -/
theorem writeLoop_readWord (n : Nat) (addr : Nat → Word) (val : Nat → Memory → Word) (m : Memory) (i : Nat) (hi : i < n)
    (h : ∀ j, i < j → j < n → addr j ≠ addr i) :
    (iterUp n (fun i m => m.writeWord (addr i) (val i m)) m).readWord (addr i) =
      val i (iterUp i (fun i m => m.writeWord (addr i) (val i m)) m) := by
  induction n with
  | zero => omega
  | succ n ih =>
    rw [iterUp_succ]
    rcases Nat.lt_succ_iff_lt_or_eq.mp hi with hi' | rfl
    · rw [Memory.readWord_writeWord_of_ne _ _ _ _ (h n hi' (Nat.lt_succ_self n))]
      exact ih hi' fun j hj hjn => h j hj (Nat.lt_succ_of_lt hjn)
    · exact Memory.readWord_writeWord_self _ _ _

/-- A loop of word writes keeps the canonical form. -/
theorem writeLoop_wf (n : Nat) (addr : Nat → Word) (val : Nat → Memory → Word) (m : Memory) (h : m.wf = true) :
    (iterUp n (fun i m => m.writeWord (addr i) (val i m)) m).wf = true :=
  iterUp_keeps (fun x => x.wf = true) n _ m h fun _ x _ hx => Memory.wf_writeWord x _ _ hx

theorem Memory.inMap_writeWord (m : Memory) (a v : Word) (h : m.inMap) (ha : mapped a = true) : (m.writeWord a v).inMap := by
  intro c hc
  rcases Memory.mem_writeWord _ _ _ _ hc with hc | hc
  · rw [hc]
    exact ⟨a.isLt, by rwa [BitVec.ofNat_toNat, BitVec.setWidth_eq]⟩
  · exact h c hc

/-- A loop of writes to mapped words stays in the map. -/
theorem writeLoop_inMap (n : Nat) (addr : Nat → Word) (val : Nat → Memory → Word) (m : Memory) (h : m.inMap)
    (ha : ∀ i, i < n → mapped (addr i) = true) : (iterUp n (fun i m => m.writeWord (addr i) (val i m)) m).inMap :=
  iterUp_keeps (fun x => x.inMap) n _ m h fun i x hi hx => Memory.inMap_writeWord x _ _ hx (ha i hi)

/-! ## The unit functions as loops of word writes -/

theorem copyWords_eq (dst src : Word) (n : Nat) (m : Memory) :
    copyWords dst src n m = iterUp n (fun i m => m.writeWord (unitStride dst i) (m.readWord (unitStride src i))) m := rfl

theorem zeroWords_eq (a : Word) (n : Nat) (m : Memory) :
    zeroWords a n m = iterUp n (fun i m => m.writeWord (unitStride a i) 0) m := rfl

theorem convertToFloat_eq (fxw : Nat) (dst src stride : Word) (len : Nat) (m : Memory) :
    convertToFloat fxw dst src stride len m =
      iterUp len (fun i m => m.writeWord (unitStride dst i) (floatOf fxw (m.readWord (channelStride src stride i)))) m := rfl

theorem writeOutputs_eq (m : Memory) (d : JobDescriptor) :
    writeOutputs m d = iterUp d.outLen.toNat (fun n m' => m'.writeWord (unitStride d.outBase n) (firDot m d n)) m := rfl

/-- The memory side of `ToFixed` is a loop of word writes. -/
theorem convertToFixed_mem (fxw : Nat) (dst src stride : Word) (len : Nat) (p : Memory × Word) :
    (convertToFixed fxw dst src stride len p).1 =
      iterUp len (fun i m => m.writeWord (channelStride dst stride i) (fixOf fxw (m.readWord (unitStride src i))).1) p.1 := by
  induction len with
  | zero => rfl
  | succ n ih =>
    simp only [convertToFixed, iterUp_succ, convertSample] at ih ⊢
    rw [ih]

/-- A list of words is written at consecutive addresses. -/
theorem writeWords_readWord (m : Memory) (a : Word) (ws : List Word) (hlen : ws.length ≤ 2 ^ 32) (i : Nat)
    (hi : i < ws.length) : (writeWords m a ws).readWord (unitStride a i) = ws[i] := by
  induction ws generalizing m a i with
  | nil => simp at hi
  | cons w ws ih =>
    have frame : ∀ (m : Memory) (a b : Word) (ws : List Word), (∀ i, i < ws.length → unitStride a i ≠ b) →
        (writeWords m a ws).readWord b = m.readWord b := by
      intro m a b ws
      induction ws generalizing m a with
      | nil => intro _; rfl
      | cons w ws ih =>
        intro h
        rw [writeWords, ih _ _ fun i hi => by rw [unitStride_succ]; exact h (i + 1) (by simpa using hi)]
        exact Memory.readWord_writeWord_of_ne _ _ _ _ (by simpa [unitStride_zero] using h 0 (by simp))
    rw [writeWords]
    cases i with
    | zero =>
      rw [frame, unitStride_zero, Memory.readWord_writeWord_self]
      · rfl
      · intro j hj h
        rw [unitStride_succ] at h
        have := unitStride_inj a (j + 1) 0 (by simp at hlen; omega) (by omega) h
        omega
    | succ i =>
      rw [← unitStride_succ, ih _ _ (by simp at hlen; omega) i (by simpa using hi)]
      rfl

/-- The bytes that writing a list of words leaves alone. -/
theorem writeWords_byteAt (m : Memory) (a : Word) (ws : List Word) (k : Nat)
    (h : ∀ i, i < ws.length → k / 4 ≠ (unitStride a i).toNat) : (writeWords m a ws).byteAt k = m.byteAt k := by
  induction ws generalizing m a with
  | nil => rfl
  | cons w ws ih =>
    rw [writeWords, ih _ _ fun i hi => by rw [unitStride_succ]; exact h (i + 1) (by simpa using hi)]
    exact Memory.byteAt_writeWord_of_ne _ _ _ _ (by simpa [unitStride_zero] using h 0 (by simp))

theorem writeWords_wf (m : Memory) (a : Word) (ws : List Word) (h : m.wf = true) : (writeWords m a ws).wf = true := by
  induction ws generalizing m a with
  | nil => exact h
  | cons w ws ih => exact ih _ _ (Memory.wf_writeWord _ _ _ h)

theorem writeWords_inMap (m : Memory) (a : Word) (ws : List Word) (h : m.inMap)
    (ha : ∀ i, i < ws.length → mapped (unitStride a i) = true) : (writeWords m a ws).inMap := by
  induction ws generalizing m a with
  | nil => exact h
  | cons w ws ih =>
    rw [writeWords]
    refine ih _ _ (Memory.inMap_writeWord _ _ _ h ?_) fun i hi => ?_
    · simpa [unitStride_zero] using ha 0 (by simp)
    · rw [unitStride_succ]; exact ha (i + 1) (by simpa using hi)

/-! ## Copies -/

/-- A copy between runs that share no address (fewer than `2^32` words). -/
theorem copyWords_readWord (dst src : Word) (n : Nat) (m : Memory) (hn : n ≤ 2 ^ 32) (i : Nat) (hi : i < n)
    (h : ∀ j, j < n → unitStride dst j ≠ unitStride src i) :
    (copyWords dst src n m).readWord (unitStride dst i) = m.readWord (unitStride src i) := by
  rw [copyWords_eq, writeLoop_readWord n (unitStride dst) (fun i m => m.readWord (unitStride src i)) m i hi fun j hj hjn e => by
    have := unitStride_inj dst j i (by omega) (by omega) e
    omega]
  exact writeLoop_readWord_of_ne _ _ _ _ _ fun j hj => h j (by omega)

theorem copyWords_readWord_of_ne (dst src : Word) (n : Nat) (m : Memory) (b : Word) (h : ∀ i, i < n → unitStride dst i ≠ b) :
    (copyWords dst src n m).readWord b = m.readWord b :=
  writeLoop_readWord_of_ne _ _ _ _ _ h

theorem copyWords_byteAt (dst src : Word) (n : Nat) (m : Memory) (k : Nat) (h : ∀ i, i < n → k / 4 ≠ (unitStride dst i).toNat) :
    (copyWords dst src n m).byteAt k = m.byteAt k :=
  writeLoop_byteAt _ _ _ _ _ h

theorem copyWords_wf (dst src : Word) (n : Nat) (m : Memory) (h : m.wf = true) : (copyWords dst src n m).wf = true :=
  writeLoop_wf _ _ _ _ h

end Sys2Proof.Machine
end

