-- ==== Sys2Proof/Laws/Stager.lean ====
section
/-! SUPPORT. What the stager's unit functions leave in memory (`41_history_stager.md` R151, R153). -/

namespace Sys2Proof.Machine

/-- Buffers of different regions share no address. -/
theorem Region.base_ne (r r' : Region) (u u' i i' : Nat) (hr : r ≠ r') (hu : u < 256) (hu' : u' < 256) (hi : i < 0x10000)
    (hi' : i' < 0x10000) : unitStride (r.base u) i ≠ unitStride (r'.base u') i' :=
  fun h => hr (Region.base_inj r r' u u' i i' hu hu' hi hi' h).1

/-- Buffers of different units share no address. -/
theorem Region.base_ne_unit (r r' : Region) (u u' i i' : Nat) (hne : u ≠ u') (hu : u < 256) (hu' : u' < 256)
    (hi : i < 0x10000) (hi' : i' < 0x10000) : unitStride (r.base u) i ≠ unitStride (r'.base u') i' :=
  fun h => hne (Region.base_inj r r' u u' i i' hu hu' hi hi' h).2.1

/-- Different offsets of a buffer are different addresses. -/
theorem Region.base_ne_offset (r : Region) (u i i' : Nat) (hne : i ≠ i') (hu : u < 256) (hi : i < 0x10000)
    (hi' : i' < 0x10000) : unitStride (r.base u) i ≠ unitStride (r.base u) i' :=
  fun h => hne (Region.base_inj r r u u i i' hu hu hi hi' h).2.2

/-- `Stage(c)`: the window begins with the history. -/
theorem stageWords_history (c h b : Nat) (m : Memory) (hc : c < 256) (hh : h ≤ 4096) (hb : b ≤ 4096) (i : Nat) (hi : i < h) :
    (stageWords c h b m).readWord (unitStride (Region.win.base c) i) =
      m.readWord (unitStride (Region.hist.base c) i) := by
  rw [stageWords, copyWords_readWord_of_ne]
  · exact copyWords_readWord _ _ _ _ (by omega) i hi fun j hj =>
      Region.base_ne _ _ _ _ _ _ (by decide) hc hc (by omega) (by omega)
  · intro j hj
    rw [unitStride_unitStride]
    exact Region.base_ne_offset _ _ _ _ (by omega) hc (by omega) (by omega)

/-- `Stage(c)`: after the history comes the new block. -/
theorem stageWords_block (c h b : Nat) (m : Memory) (hc : c < 256) (hh : h ≤ 4096) (hb : b ≤ 4096) (j : Nat) (hj : j < b) :
    (stageWords c h b m).readWord (unitStride (Region.win.base c) (h + j)) =
      m.readWord (unitStride (Region.csb.base c) j) := by
  rw [stageWords, ← unitStride_unitStride, copyWords_readWord _ _ _ _ (by omega) j hj]
  · exact copyWords_readWord_of_ne _ _ _ _ _ fun i hi =>
      Region.base_ne _ _ _ _ _ _ (by decide) hc hc (by omega) (by omega)
  · intro i hi
    rw [unitStride_unitStride]
    exact Region.base_ne _ _ _ _ _ _ (by decide) hc hc (by omega) (by omega)

/-- `Stage(c)` writes the window of its channel and nothing else. -/
theorem stageWords_byteAt (c h b : Nat) (m : Memory) (k : Nat)
    (hk : ∀ i, i < h + b → k / 4 ≠ (unitStride (Region.win.base c) i).toNat) :
    (stageWords c h b m).byteAt k = m.byteAt k := by
  rw [stageWords, copyWords_byteAt, copyWords_byteAt]
  · exact fun i hi => hk i (by omega)
  · intro i hi
    rw [unitStride_unitStride]
    exact hk (h + i) (by omega)

theorem stageWords_wf (c h b : Nat) (m : Memory) (hm : m.wf = true) : (stageWords c h b m).wf = true :=
  copyWords_wf _ _ _ _ (copyWords_wf _ _ _ _ hm)

/-- `Capture(c)`: the history becomes the last words of the window. -/
theorem captureWords_history (c h b : Nat) (m : Memory) (hc : c < 256) (hh : h ≤ 4096) (hb : b ≤ 4096) (i : Nat)
    (hi : i < h) :
    (captureWords c h b m).readWord (unitStride (Region.hist.base c) i) =
      m.readWord (unitStride (Region.win.base c) (b + i)) := by
  rw [captureWords, ← unitStride_unitStride]
  refine copyWords_readWord _ _ _ _ (by omega) i hi fun j hj => ?_
  rw [unitStride_unitStride]
  exact Region.base_ne _ _ _ _ _ _ (by decide) hc hc (by omega) (by omega)

/-- `Capture(c)` writes the history of its channel and nothing else. -/
theorem captureWords_byteAt (c h b : Nat) (m : Memory) (k : Nat)
    (hk : ∀ i, i < h → k / 4 ≠ (unitStride (Region.hist.base c) i).toNat) :
    (captureWords c h b m).byteAt k = m.byteAt k :=
  copyWords_byteAt _ _ _ _ _ hk

theorem captureWords_wf (c h b : Nat) (m : Memory) (hm : m.wf = true) : (captureWords c h b m).wf = true :=
  copyWords_wf _ _ _ _ hm

/-- The stager's addresses are mapped whenever the channel, the tap count and the block size are legal (R151). -/
theorem stagerMapped_of_legal (c h b : Nat) (hc : c < Config.maxCh) (hh : h ≤ Config.maxTaps - 1) (hb : b ≤ Config.maxB) :
    stagerMapped c h b = true := by
  simp only [stagerMapped, Bool.and_eq_true]
  refine ⟨⟨Region.mappedRange_base .hist c h hc hh, Region.mappedRange_base .win c (h + b) hc ?_⟩,
    Region.mappedRange_base .csb c b hc hb⟩
  simp only [Region.capacity, Config.maxB, Config.maxTaps] at *
  omega

end Sys2Proof.Machine
end

