-- ==== Sys2Proof/Laws/Converter.lean ====
section
/-! SUPPORT. What the converter's unit functions leave in memory and in `SAT_COUNT` (`40_conversion.md` R132, R134). -/

namespace Sys2Proof.Machine

theorem convertToFloat_byteAt (fxw : Nat) (dst src stride : Word) (len : Nat) (m : Memory) (k : Nat)
    (h : ∀ i, i < len → k / 4 ≠ (unitStride dst i).toNat) :
    (convertToFloat fxw dst src stride len m).byteAt k = m.byteAt k :=
  writeLoop_byteAt _ _ _ _ _ h

theorem convertToFloat_readWord_of_ne (fxw : Nat) (dst src stride : Word) (len : Nat) (m : Memory) (b : Word)
    (h : ∀ i, i < len → unitStride dst i ≠ b) : (convertToFloat fxw dst src stride len m).readWord b = m.readWord b :=
  writeLoop_readWord_of_ne _ _ _ _ _ h

theorem convertToFloat_wf (fxw : Nat) (dst src stride : Word) (len : Nat) (m : Memory) (h : m.wf = true) :
    (convertToFloat fxw dst src stride len m).wf = true :=
  writeLoop_wf _ _ _ _ h

/-- A converted sample whose source no earlier sample wrote. -/
theorem convertToFloat_readWord (fxw : Nat) (dst src stride : Word) (len : Nat) (m : Memory) (hlen : len ≤ 2 ^ 32) (i : Nat)
    (hi : i < len) (h : ∀ j, j < i → unitStride dst j ≠ channelStride src stride i) :
    (convertToFloat fxw dst src stride len m).readWord (unitStride dst i) =
      floatOf fxw (m.readWord (channelStride src stride i)) := by
  rw [convertToFloat_eq, writeLoop_readWord len (unitStride dst)
    (fun i m => floatOf fxw (m.readWord (channelStride src stride i))) m i hi fun j hj hjn e => by
      have := unitStride_inj dst j i (by omega) (by omega) e
      omega]
  rw [writeLoop_readWord_of_ne i (unitStride dst) _ m _ h]

theorem convertToFixed_byteAt (fxw : Nat) (dst src stride : Word) (len : Nat) (p : Memory × Word) (k : Nat)
    (h : ∀ i, i < len → k / 4 ≠ (channelStride dst stride i).toNat) :
    (convertToFixed fxw dst src stride len p).1.byteAt k = p.1.byteAt k := by
  rw [convertToFixed_mem]
  exact writeLoop_byteAt _ _ _ _ _ h

theorem convertToFixed_readWord_of_ne (fxw : Nat) (dst src stride : Word) (len : Nat) (p : Memory × Word) (b : Word)
    (h : ∀ i, i < len → channelStride dst stride i ≠ b) :
    (convertToFixed fxw dst src stride len p).1.readWord b = p.1.readWord b := by
  rw [convertToFixed_mem]
  exact writeLoop_readWord_of_ne _ _ _ _ _ h

theorem convertToFixed_wf (fxw : Nat) (dst src stride : Word) (len : Nat) (p : Memory × Word) (h : p.1.wf = true) :
    (convertToFixed fxw dst src stride len p).1.wf = true := by
  rw [convertToFixed_mem]
  exact writeLoop_wf _ _ _ _ h

/-- A converted sample that no later sample overwrites and whose source no earlier sample wrote. -/
theorem convertToFixed_readWord (fxw : Nat) (dst src stride : Word) (len : Nat) (p : Memory × Word) (i : Nat) (hi : i < len)
    (hlater : ∀ j, i < j → j < len → channelStride dst stride j ≠ channelStride dst stride i)
    (h : ∀ j, j < i → channelStride dst stride j ≠ unitStride src i) :
    (convertToFixed fxw dst src stride len p).1.readWord (channelStride dst stride i) =
      (fixOf fxw (p.1.readWord (unitStride src i))).1 := by
  rw [convertToFixed_mem, writeLoop_readWord len (channelStride dst stride)
    (fun i m => (fixOf fxw (m.readWord (unitStride src i))).1) p.1 i hi hlater]
  rw [writeLoop_readWord_of_ne i (channelStride dst stride) _ p.1 _ h]

end Sys2Proof.Machine
end

