-- ==== Sys2Proof/Laws/Decode.lean ====
section
/-! SUPPORT. The fields of an encoded command (`30_encoding.md` R100). -/

namespace Sys2Proof

/-- Two bytes above sixteen zeros, as a number. -/
theorem fields_toNat (a b : BitVec 8) : (a ++ b ++ 0#16 : BitVec (8 + 8 + 16)).toNat = a.toNat * 2 ^ 24 + b.toNat * 2 ^ 16 := by
  rw [BitVec.toNat_append, BitVec.toNat_append, ← Nat.shiftLeft_add_eq_or_of_lt (b := b.toNat) b.isLt,
    show (0#16).toNat = 0 from rfl, Nat.or_zero, Nat.shiftLeft_eq, Nat.shiftLeft_eq]
  omega

/-- An encoding as a number (R100). -/
theorem encode_toNat (i : Instr) : (encode i).toNat = i.opc % 256 * 2 ^ 24 + i.channel % 256 * 2 ^ 16 := by
  have h := fields_toNat (BitVec.ofNat 8 i.opc) (BitVec.ofNat 8 i.channel)
  rw [BitVec.toNat_ofNat, BitVec.toNat_ofNat] at h
  exact h

theorem fieldOpc_toNat (w : Word) : (fieldOpc w).toNat = w.toNat / 2 ^ 24 := by
  have := w.isLt
  rw [fieldOpc, BitVec.extractLsb'_toNat, Nat.shiftRight_eq_div_pow]
  omega

theorem fieldCh_toNat (w : Word) : (fieldCh w).toNat = w.toNat / 2 ^ 16 % 256 := by
  rw [fieldCh, BitVec.extractLsb'_toNat, Nat.shiftRight_eq_div_pow]

theorem fieldZero_toNat (w : Word) : (fieldZero w).toNat = w.toNat % 2 ^ 16 := by
  rw [fieldZero, BitVec.extractLsb'_toNat, Nat.shiftRight_eq_div_pow, pow_zero, Nat.div_one]

theorem fieldOpc_encode (i : Instr) : fieldOpc (encode i) = BitVec.ofNat 8 i.opc := by
  apply BitVec.eq_of_toNat_eq
  rw [fieldOpc_toNat, encode_toNat, BitVec.toNat_ofNat]
  omega

theorem fieldCh_encode (i : Instr) : fieldCh (encode i) = BitVec.ofNat 8 i.channel := by
  apply BitVec.eq_of_toNat_eq
  rw [fieldCh_toNat, encode_toNat, BitVec.toNat_ofNat]
  omega

theorem fieldZero_encode (i : Instr) : fieldZero (encode i) = 0 := by
  apply BitVec.eq_of_toNat_eq
  rw [fieldZero_toNat, encode_toNat]
  simp
  omega

/-- The three fields make the word. -/
theorem word_of_fields (w : Word) :
    w.toNat = (fieldOpc w).toNat * 2 ^ 24 + (fieldCh w).toNat * 2 ^ 16 + (fieldZero w).toNat := by
  rw [fieldOpc_toNat, fieldCh_toNat, fieldZero_toNat]
  omega

end Sys2Proof
end

