-- ==== Sys2Proof/Laws/Float.lean ====
section
/-! SUPPORT. The rounded quotient, and the fields of a packed binary32 word (`00_scope.md` R14, R15). -/

namespace Sys2Proof.Machine

/-- `rneDiv` is a nearest integer, an even one at a tie (R15). -/
theorem rneDiv_nearest (num den : Nat) (hd : 0 < den) :
    2 * (rneDiv num den * den) ≤ 2 * num + den ∧ 2 * num ≤ 2 * (rneDiv num den * den) + den ∧
      (2 * (rneDiv num den * den) = 2 * num + den ∨ 2 * num = 2 * (rneDiv num den * den) + den →
        rneDiv num den % 2 = 0) := by
  have e : num / den * den + num % den = num := by rw [Nat.mul_comm]; exact Nat.div_add_mod num den
  have hr : num % den < den := Nat.mod_lt _ hd
  unfold rneDiv
  dsimp only
  generalize num / den = q at *
  generalize num % den = r at *
  have e2 : (q + 1) * den = q * den + den := by ring
  split_ifs with h
  · rw [e2]
    generalize q * den = x at *
    refine ⟨by omega, by omega, by omega⟩
  · generalize q * den = x at *
    refine ⟨by omega, by omega, by omega⟩

/-- A quotient without remainder is not rounded. -/
theorem rneDiv_mul (q den : Nat) (hd : 0 < den) : rneDiv (q * den) den = q := by
  simp [rneDiv, Nat.mul_div_cancel _ hd, Nat.ne_of_lt hd]

theorem f32Pack_toNat (sign : Bool) (bits : Nat) (h : bits < 2 ^ 31) :
    (f32Pack sign bits).toNat = (if sign then 2 ^ 31 else 0) + bits := by
  have hb : bits % 2 ^ 31 = bits := Nat.mod_eq_of_lt h
  rw [f32Pack, BitVec.toNat_append, BitVec.toNat_ofNat, hb]
  cases sign
  · simp
  · rw [show (BitVec.ofBool true).toNat = 1 from rfl, Nat.shiftLeft_eq, Nat.one_mul, Nat.or_comm, Nat.or_two_pow_eq_add_of_lt h]
    simp
    omega

theorem f32Pack_sign (sign : Bool) (bits : Nat) (h : bits < 2 ^ 31) : f32Sign (f32Pack sign bits) = sign := by
  have e := f32Pack_toNat sign bits h
  rw [f32Sign, BitVec.getLsbD, e, Nat.testBit_eq_decide_div_mod_eq]
  cases sign
  · rw [Nat.div_eq_of_lt (by simpa using h)]; rfl
  · rw [show ((if true then 2 ^ 31 else 0) + bits) / 2 ^ 31 = 1 by simp; omega]; rfl

theorem f32Pack_exp (sign : Bool) (bits : Nat) (h : bits < 2 ^ 31) : f32Exp (f32Pack sign bits) = bits / 2 ^ 23 := by
  rw [f32Exp, BitVec.extractLsb'_toNat, f32Pack_toNat sign bits h, Nat.shiftRight_eq_div_pow]
  cases sign
  · simp
    omega
  · simp
    omega

theorem f32Pack_frac (sign : Bool) (bits : Nat) (h : bits < 2 ^ 31) : f32Frac (f32Pack sign bits) = bits % 2 ^ 23 := by
  rw [f32Frac, BitVec.extractLsb'_toNat, f32Pack_toNat sign bits h, Nat.shiftRight_eq_div_pow]
  cases sign <;> simp <;> omega

/-- The magnitude of a finite word, in units of `2^-149`, from its low 31 bits. -/
theorem f32Pack_mag (sign : Bool) (bits : Nat) (h : bits < 2 ^ 31) :
    f32Mag (f32Pack sign bits) =
      if bits / 2 ^ 23 = 0 then bits % 2 ^ 23 else (2 ^ 23 + bits % 2 ^ 23) * 2 ^ (bits / 2 ^ 23 - 1) := by
  rw [f32Mag, f32Pack_exp sign bits h, f32Pack_frac sign bits h]

/-- A word is its sign and its low 31 bits. -/
theorem f32Pack_self (a : Word) : f32Pack (f32Sign a) (a.toNat % 2 ^ 31) = a := by
  apply BitVec.eq_of_toNat_eq
  rw [f32Pack_toNat _ _ (Nat.mod_lt _ (by decide)), f32Sign, BitVec.getLsbD, Nat.testBit_eq_decide_div_mod_eq]
  have := a.isLt
  by_cases h : a.toNat / 2 ^ 31 % 2 = 1
  · rw [decide_eq_true h]; simp at *; omega
  · rw [decide_eq_false h]; simp at *; omega

end Sys2Proof.Machine
end

