-- ==== Sys2Proof/Laws/State.lean ====
section
/-! SUPPORT. One lemma for each field of each named update of the state. -/

namespace Sys2Proof.Machine

/-! ## `complete` -/

@[simp] theorem State.complete_arg0 (s : State) (r : Word) : (s.complete r).arg0 = s.arg0 := rfl
@[simp] theorem State.complete_arg1 (s : State) (r : Word) : (s.complete r).arg1 = s.arg1 := rfl
@[simp] theorem State.complete_arg2 (s : State) (r : Word) : (s.complete r).arg2 = s.arg2 := rfl
@[simp] theorem State.complete_arg3 (s : State) (r : Word) : (s.complete r).arg3 = s.arg3 := rfl
@[simp] theorem State.complete_status (s : State) (r : Word) : (s.complete r).status = .ok := rfl
@[simp] theorem State.complete_res (s : State) (r : Word) : (s.complete r).res = r := rfl
@[simp] theorem State.complete_phase (s : State) (r : Word) : (s.complete r).phase = s.phase := rfl
@[simp] theorem State.complete_cp (s : State) (r : Word) : (s.complete r).cp = s.cp := rfl
@[simp] theorem State.complete_descLeft (s : State) (r : Word) : (s.complete r).descLeft = s.descLeft := rfl
@[simp] theorem State.complete_lapsLeft (s : State) (r : Word) : (s.complete r).lapsLeft = s.lapsLeft := rfl
@[simp] theorem State.complete_jobCI (s : State) (r : Word) : (s.complete r).jobCI = s.jobCI := rfl
@[simp] theorem State.complete_jobAI (s : State) (r : Word) : (s.complete r).jobAI = s.jobAI := rfl
@[simp] theorem State.complete_blockReady (s : State) (r : Word) : (s.complete r).blockReady = s.blockReady := rfl
@[simp] theorem State.complete_processingActive (s : State) (r : Word) : (s.complete r).processingActive = s.processingActive := rfl
@[simp] theorem State.complete_filterDone (s : State) (r : Word) : (s.complete r).filterDone = s.filterDone := rfl
@[simp] theorem State.complete_accelBusy (s : State) (r : Word) : (s.complete r).accelBusy = s.accelBusy := rfl
@[simp] theorem State.complete_cfgError (s : State) (r : Word) : (s.complete r).cfgError = s.cfgError := rfl
@[simp] theorem State.complete_busFault (s : State) (r : Word) : (s.complete r).busFault = s.busFault := rfl
@[simp] theorem State.complete_protoFault (s : State) (r : Word) : (s.complete r).protoFault = s.protoFault := rfl
@[simp] theorem State.complete_run (s : State) (r : Word) : (s.complete r).run = s.run := rfl
@[simp] theorem State.complete_mode (s : State) (r : Word) : (s.complete r).mode = s.mode := rfl
@[simp] theorem State.complete_nch (s : State) (r : Word) : (s.complete r).nch = s.nch := rfl
@[simp] theorem State.complete_bsize (s : State) (r : Word) : (s.complete r).bsize = s.bsize := rfl
@[simp] theorem State.complete_iter (s : State) (r : Word) : (s.complete r).iter = s.iter := rfl
@[simp] theorem State.complete_firHead (s : State) (r : Word) : (s.complete r).firHead = s.firHead := rfl
@[simp] theorem State.complete_rxSlot (s : State) (r : Word) : (s.complete r).rxSlot = s.rxSlot := rfl
@[simp] theorem State.complete_curSlot (s : State) (r : Word) : (s.complete r).curSlot = s.curSlot := rfl
@[simp] theorem State.complete_overrunCount (s : State) (r : Word) : (s.complete r).overrunCount = s.overrunCount := rfl
@[simp] theorem State.complete_blockCount (s : State) (r : Word) : (s.complete r).blockCount = s.blockCount := rfl
@[simp] theorem State.complete_satCount (s : State) (r : Word) : (s.complete r).satCount = s.satCount := rfl
@[simp] theorem State.complete_chcfg (s : State) (r : Word) : (s.complete r).chcfg = s.chcfg := rfl
@[simp] theorem State.complete_mem (s : State) (r : Word) : (s.complete r).mem = s.mem := rfl
@[simp] theorem State.complete_waitHold (s : State) (r : Word) : (s.complete r).waitHold = s.waitHold := rfl
@[simp] theorem State.complete_fillSlot (s : State) (r : Word) : (s.complete r).fillSlot = s.fillSlot := rfl
@[simp] theorem State.complete_filled (s : State) (r : Word) : (s.complete r).filled = s.filled := rfl
@[simp] theorem State.complete_fxw (s : State) (r : Word) : (s.complete r).fxw = s.fxw := rfl
@[simp] theorem State.complete_turns (s : State) (r : Word) : (s.complete r).turns = s.turns := rfl
@[simp] theorem State.complete_hostOps (s : State) (r : Word) : (s.complete r).hostOps = s.hostOps := rfl
@[simp] theorem State.complete_transportOps (s : State) (r : Word) : (s.complete r).transportOps = s.transportOps := rfl
@[simp] theorem State.complete_busReads (s : State) (r : Word) : (s.complete r).busReads = s.busReads := rfl
@[simp] theorem State.complete_drained (s : State) (r : Word) : (s.complete r).drained = s.drained := rfl
@[simp] theorem State.complete_emits (s : State) (r : Word) : (s.complete r).emits = s.emits := rfl

/-! ## `raiseStatus` -/

@[simp] theorem State.raiseStatus_arg0 (s : State) (c : Status) : (s.raiseStatus c).arg0 = s.arg0 := by cases c <;> simp [State.raiseStatus]
@[simp] theorem State.raiseStatus_arg1 (s : State) (c : Status) : (s.raiseStatus c).arg1 = s.arg1 := by cases c <;> simp [State.raiseStatus]
@[simp] theorem State.raiseStatus_arg2 (s : State) (c : Status) : (s.raiseStatus c).arg2 = s.arg2 := by cases c <;> simp [State.raiseStatus]
@[simp] theorem State.raiseStatus_arg3 (s : State) (c : Status) : (s.raiseStatus c).arg3 = s.arg3 := by cases c <;> simp [State.raiseStatus]
@[simp] theorem State.raiseStatus_status (s : State) (c : Status) : (s.raiseStatus c).status = c := by cases c <;> simp [State.raiseStatus]
@[simp] theorem State.raiseStatus_res (s : State) (c : Status) : (s.raiseStatus c).res = 0 := by cases c <;> simp [State.raiseStatus]
@[simp] theorem State.raiseStatus_phase (s : State) (c : Status) : (s.raiseStatus c).phase = s.phase := by cases c <;> simp [State.raiseStatus]
@[simp] theorem State.raiseStatus_cp (s : State) (c : Status) : (s.raiseStatus c).cp = s.cp := by cases c <;> simp [State.raiseStatus]
@[simp] theorem State.raiseStatus_descLeft (s : State) (c : Status) : (s.raiseStatus c).descLeft = s.descLeft := by cases c <;> simp [State.raiseStatus]
@[simp] theorem State.raiseStatus_lapsLeft (s : State) (c : Status) : (s.raiseStatus c).lapsLeft = s.lapsLeft := by cases c <;> simp [State.raiseStatus]
@[simp] theorem State.raiseStatus_jobCI (s : State) (c : Status) : (s.raiseStatus c).jobCI = s.jobCI := by cases c <;> simp [State.raiseStatus]
@[simp] theorem State.raiseStatus_jobAI (s : State) (c : Status) : (s.raiseStatus c).jobAI = s.jobAI := by cases c <;> simp [State.raiseStatus]
@[simp] theorem State.raiseStatus_blockReady (s : State) (c : Status) : (s.raiseStatus c).blockReady = s.blockReady := by cases c <;> simp [State.raiseStatus]
@[simp] theorem State.raiseStatus_processingActive (s : State) (c : Status) : (s.raiseStatus c).processingActive = s.processingActive := by cases c <;> simp [State.raiseStatus]
@[simp] theorem State.raiseStatus_filterDone (s : State) (c : Status) : (s.raiseStatus c).filterDone = s.filterDone := by cases c <;> simp [State.raiseStatus]
@[simp] theorem State.raiseStatus_accelBusy (s : State) (c : Status) : (s.raiseStatus c).accelBusy = s.accelBusy := by cases c <;> simp [State.raiseStatus]
@[simp] theorem State.raiseStatus_cfgError (s : State) (c : Status) : (s.raiseStatus c).cfgError = (s.cfgError || decide (c = .errConfig)) := by cases c <;> simp [State.raiseStatus]
@[simp] theorem State.raiseStatus_busFault (s : State) (c : Status) : (s.raiseStatus c).busFault = (s.busFault || decide (c = .errBus)) := by cases c <;> simp [State.raiseStatus]
@[simp] theorem State.raiseStatus_protoFault (s : State) (c : Status) : (s.raiseStatus c).protoFault = s.protoFault := by cases c <;> simp [State.raiseStatus]
@[simp] theorem State.raiseStatus_run (s : State) (c : Status) : (s.raiseStatus c).run = s.run := by cases c <;> simp [State.raiseStatus]
@[simp] theorem State.raiseStatus_mode (s : State) (c : Status) : (s.raiseStatus c).mode = s.mode := by cases c <;> simp [State.raiseStatus]
@[simp] theorem State.raiseStatus_nch (s : State) (c : Status) : (s.raiseStatus c).nch = s.nch := by cases c <;> simp [State.raiseStatus]
@[simp] theorem State.raiseStatus_bsize (s : State) (c : Status) : (s.raiseStatus c).bsize = s.bsize := by cases c <;> simp [State.raiseStatus]
@[simp] theorem State.raiseStatus_iter (s : State) (c : Status) : (s.raiseStatus c).iter = s.iter := by cases c <;> simp [State.raiseStatus]
@[simp] theorem State.raiseStatus_firHead (s : State) (c : Status) : (s.raiseStatus c).firHead = s.firHead := by cases c <;> simp [State.raiseStatus]
@[simp] theorem State.raiseStatus_rxSlot (s : State) (c : Status) : (s.raiseStatus c).rxSlot = s.rxSlot := by cases c <;> simp [State.raiseStatus]
@[simp] theorem State.raiseStatus_curSlot (s : State) (c : Status) : (s.raiseStatus c).curSlot = s.curSlot := by cases c <;> simp [State.raiseStatus]
@[simp] theorem State.raiseStatus_overrunCount (s : State) (c : Status) : (s.raiseStatus c).overrunCount = s.overrunCount := by cases c <;> simp [State.raiseStatus]
@[simp] theorem State.raiseStatus_blockCount (s : State) (c : Status) : (s.raiseStatus c).blockCount = s.blockCount := by cases c <;> simp [State.raiseStatus]
@[simp] theorem State.raiseStatus_satCount (s : State) (c : Status) : (s.raiseStatus c).satCount = s.satCount := by cases c <;> simp [State.raiseStatus]
@[simp] theorem State.raiseStatus_chcfg (s : State) (c : Status) : (s.raiseStatus c).chcfg = s.chcfg := by cases c <;> simp [State.raiseStatus]
@[simp] theorem State.raiseStatus_mem (s : State) (c : Status) : (s.raiseStatus c).mem = s.mem := by cases c <;> simp [State.raiseStatus]
@[simp] theorem State.raiseStatus_waitHold (s : State) (c : Status) : (s.raiseStatus c).waitHold = s.waitHold := by cases c <;> simp [State.raiseStatus]
@[simp] theorem State.raiseStatus_fillSlot (s : State) (c : Status) : (s.raiseStatus c).fillSlot = s.fillSlot := by cases c <;> simp [State.raiseStatus]
@[simp] theorem State.raiseStatus_filled (s : State) (c : Status) : (s.raiseStatus c).filled = s.filled := by cases c <;> simp [State.raiseStatus]
@[simp] theorem State.raiseStatus_fxw (s : State) (c : Status) : (s.raiseStatus c).fxw = s.fxw := by cases c <;> simp [State.raiseStatus]
@[simp] theorem State.raiseStatus_turns (s : State) (c : Status) : (s.raiseStatus c).turns = s.turns := by cases c <;> simp [State.raiseStatus]
@[simp] theorem State.raiseStatus_hostOps (s : State) (c : Status) : (s.raiseStatus c).hostOps = s.hostOps := by cases c <;> simp [State.raiseStatus]
@[simp] theorem State.raiseStatus_transportOps (s : State) (c : Status) : (s.raiseStatus c).transportOps = s.transportOps := by cases c <;> simp [State.raiseStatus]
@[simp] theorem State.raiseStatus_busReads (s : State) (c : Status) : (s.raiseStatus c).busReads = s.busReads := by cases c <;> simp [State.raiseStatus]
@[simp] theorem State.raiseStatus_drained (s : State) (c : Status) : (s.raiseStatus c).drained = s.drained := by cases c <;> simp [State.raiseStatus]
@[simp] theorem State.raiseStatus_emits (s : State) (c : Status) : (s.raiseStatus c).emits = s.emits := by cases c <;> simp [State.raiseStatus]

/-! ## `setChan` -/

@[simp] theorem State.setChan_arg0 (s : State) (c : Nat) (t : BitVec 16) : (s.setChan c t).arg0 = s.arg0 := rfl
@[simp] theorem State.setChan_arg1 (s : State) (c : Nat) (t : BitVec 16) : (s.setChan c t).arg1 = s.arg1 := rfl
@[simp] theorem State.setChan_arg2 (s : State) (c : Nat) (t : BitVec 16) : (s.setChan c t).arg2 = s.arg2 := rfl
@[simp] theorem State.setChan_arg3 (s : State) (c : Nat) (t : BitVec 16) : (s.setChan c t).arg3 = s.arg3 := rfl
@[simp] theorem State.setChan_status (s : State) (c : Nat) (t : BitVec 16) : (s.setChan c t).status = s.status := rfl
@[simp] theorem State.setChan_res (s : State) (c : Nat) (t : BitVec 16) : (s.setChan c t).res = s.res := rfl
@[simp] theorem State.setChan_phase (s : State) (c : Nat) (t : BitVec 16) : (s.setChan c t).phase = s.phase := rfl
@[simp] theorem State.setChan_cp (s : State) (c : Nat) (t : BitVec 16) : (s.setChan c t).cp = s.cp := rfl
@[simp] theorem State.setChan_descLeft (s : State) (c : Nat) (t : BitVec 16) : (s.setChan c t).descLeft = s.descLeft := rfl
@[simp] theorem State.setChan_lapsLeft (s : State) (c : Nat) (t : BitVec 16) : (s.setChan c t).lapsLeft = s.lapsLeft := rfl
@[simp] theorem State.setChan_jobCI (s : State) (c : Nat) (t : BitVec 16) : (s.setChan c t).jobCI = s.jobCI := rfl
@[simp] theorem State.setChan_jobAI (s : State) (c : Nat) (t : BitVec 16) : (s.setChan c t).jobAI = s.jobAI := rfl
@[simp] theorem State.setChan_blockReady (s : State) (c : Nat) (t : BitVec 16) : (s.setChan c t).blockReady = s.blockReady := rfl
@[simp] theorem State.setChan_processingActive (s : State) (c : Nat) (t : BitVec 16) : (s.setChan c t).processingActive = s.processingActive := rfl
@[simp] theorem State.setChan_filterDone (s : State) (c : Nat) (t : BitVec 16) : (s.setChan c t).filterDone = s.filterDone := rfl
@[simp] theorem State.setChan_accelBusy (s : State) (c : Nat) (t : BitVec 16) : (s.setChan c t).accelBusy = s.accelBusy := rfl
@[simp] theorem State.setChan_cfgError (s : State) (c : Nat) (t : BitVec 16) : (s.setChan c t).cfgError = s.cfgError := rfl
@[simp] theorem State.setChan_busFault (s : State) (c : Nat) (t : BitVec 16) : (s.setChan c t).busFault = s.busFault := rfl
@[simp] theorem State.setChan_protoFault (s : State) (c : Nat) (t : BitVec 16) : (s.setChan c t).protoFault = s.protoFault := rfl
@[simp] theorem State.setChan_run (s : State) (c : Nat) (t : BitVec 16) : (s.setChan c t).run = s.run := rfl
@[simp] theorem State.setChan_mode (s : State) (c : Nat) (t : BitVec 16) : (s.setChan c t).mode = s.mode := rfl
@[simp] theorem State.setChan_nch (s : State) (c : Nat) (t : BitVec 16) : (s.setChan c t).nch = s.nch := rfl
@[simp] theorem State.setChan_bsize (s : State) (c : Nat) (t : BitVec 16) : (s.setChan c t).bsize = s.bsize := rfl
@[simp] theorem State.setChan_iter (s : State) (c : Nat) (t : BitVec 16) : (s.setChan c t).iter = s.iter := rfl
@[simp] theorem State.setChan_firHead (s : State) (c : Nat) (t : BitVec 16) : (s.setChan c t).firHead = s.firHead := rfl
@[simp] theorem State.setChan_rxSlot (s : State) (c : Nat) (t : BitVec 16) : (s.setChan c t).rxSlot = s.rxSlot := rfl
@[simp] theorem State.setChan_curSlot (s : State) (c : Nat) (t : BitVec 16) : (s.setChan c t).curSlot = s.curSlot := rfl
@[simp] theorem State.setChan_overrunCount (s : State) (c : Nat) (t : BitVec 16) : (s.setChan c t).overrunCount = s.overrunCount := rfl
@[simp] theorem State.setChan_blockCount (s : State) (c : Nat) (t : BitVec 16) : (s.setChan c t).blockCount = s.blockCount := rfl
@[simp] theorem State.setChan_satCount (s : State) (c : Nat) (t : BitVec 16) : (s.setChan c t).satCount = s.satCount := rfl
@[simp] theorem State.setChan_chcfg (s : State) (c : Nat) (t : BitVec 16) : (s.setChan c t).chcfg = s.chcfg.setIfInBounds c ⟨t, true⟩ := rfl
@[simp] theorem State.setChan_mem (s : State) (c : Nat) (t : BitVec 16) : (s.setChan c t).mem = s.mem := rfl
@[simp] theorem State.setChan_waitHold (s : State) (c : Nat) (t : BitVec 16) : (s.setChan c t).waitHold = s.waitHold := rfl
@[simp] theorem State.setChan_fillSlot (s : State) (c : Nat) (t : BitVec 16) : (s.setChan c t).fillSlot = s.fillSlot := rfl
@[simp] theorem State.setChan_filled (s : State) (c : Nat) (t : BitVec 16) : (s.setChan c t).filled = s.filled := rfl
@[simp] theorem State.setChan_fxw (s : State) (c : Nat) (t : BitVec 16) : (s.setChan c t).fxw = s.fxw := rfl
@[simp] theorem State.setChan_turns (s : State) (c : Nat) (t : BitVec 16) : (s.setChan c t).turns = s.turns := rfl
@[simp] theorem State.setChan_hostOps (s : State) (c : Nat) (t : BitVec 16) : (s.setChan c t).hostOps = s.hostOps := rfl
@[simp] theorem State.setChan_transportOps (s : State) (c : Nat) (t : BitVec 16) : (s.setChan c t).transportOps = s.transportOps := rfl
@[simp] theorem State.setChan_busReads (s : State) (c : Nat) (t : BitVec 16) : (s.setChan c t).busReads = s.busReads := rfl
@[simp] theorem State.setChan_drained (s : State) (c : Nat) (t : BitVec 16) : (s.setChan c t).drained = s.drained := rfl
@[simp] theorem State.setChan_emits (s : State) (c : Nat) (t : BitVec 16) : (s.setChan c t).emits = s.emits := rfl

/-! ## `onComplete` -/

@[simp] theorem State.onComplete_arg0 (s : State) : (s.onComplete).arg0 = s.arg0 := rfl
@[simp] theorem State.onComplete_arg1 (s : State) : (s.onComplete).arg1 = s.arg1 := rfl
@[simp] theorem State.onComplete_arg2 (s : State) : (s.onComplete).arg2 = s.arg2 := rfl
@[simp] theorem State.onComplete_arg3 (s : State) : (s.onComplete).arg3 = s.arg3 := rfl
@[simp] theorem State.onComplete_status (s : State) : (s.onComplete).status = s.status := rfl
@[simp] theorem State.onComplete_res (s : State) : (s.onComplete).res = s.res := rfl
@[simp] theorem State.onComplete_phase (s : State) : (s.onComplete).phase = s.phase := rfl
@[simp] theorem State.onComplete_cp (s : State) : (s.onComplete).cp = s.cp := rfl
@[simp] theorem State.onComplete_descLeft (s : State) : (s.onComplete).descLeft = s.descLeft := rfl
@[simp] theorem State.onComplete_lapsLeft (s : State) : (s.onComplete).lapsLeft = s.lapsLeft := rfl
@[simp] theorem State.onComplete_jobCI (s : State) : (s.onComplete).jobCI = s.jobCI := rfl
@[simp] theorem State.onComplete_jobAI (s : State) : (s.onComplete).jobAI = s.jobAI := rfl
@[simp] theorem State.onComplete_blockReady (s : State) : (s.onComplete).blockReady = s.blockReady := rfl
@[simp] theorem State.onComplete_processingActive (s : State) : (s.onComplete).processingActive = s.processingActive := rfl
@[simp] theorem State.onComplete_filterDone (s : State) : (s.onComplete).filterDone = true := rfl
@[simp] theorem State.onComplete_accelBusy (s : State) : (s.onComplete).accelBusy = s.accelBusy := rfl
@[simp] theorem State.onComplete_cfgError (s : State) : (s.onComplete).cfgError = s.cfgError := rfl
@[simp] theorem State.onComplete_busFault (s : State) : (s.onComplete).busFault = s.busFault := rfl
@[simp] theorem State.onComplete_protoFault (s : State) : (s.onComplete).protoFault = s.protoFault := rfl
@[simp] theorem State.onComplete_run (s : State) : (s.onComplete).run = s.run := rfl
@[simp] theorem State.onComplete_mode (s : State) : (s.onComplete).mode = s.mode := rfl
@[simp] theorem State.onComplete_nch (s : State) : (s.onComplete).nch = s.nch := rfl
@[simp] theorem State.onComplete_bsize (s : State) : (s.onComplete).bsize = s.bsize := rfl
@[simp] theorem State.onComplete_iter (s : State) : (s.onComplete).iter = s.iter := rfl
@[simp] theorem State.onComplete_firHead (s : State) : (s.onComplete).firHead = s.firHead := rfl
@[simp] theorem State.onComplete_rxSlot (s : State) : (s.onComplete).rxSlot = s.rxSlot := rfl
@[simp] theorem State.onComplete_curSlot (s : State) : (s.onComplete).curSlot = s.curSlot := rfl
@[simp] theorem State.onComplete_overrunCount (s : State) : (s.onComplete).overrunCount = s.overrunCount := rfl
@[simp] theorem State.onComplete_blockCount (s : State) : (s.onComplete).blockCount = s.blockCount := rfl
@[simp] theorem State.onComplete_satCount (s : State) : (s.onComplete).satCount = s.satCount := rfl
@[simp] theorem State.onComplete_chcfg (s : State) : (s.onComplete).chcfg = s.chcfg := rfl
@[simp] theorem State.onComplete_mem (s : State) : (s.onComplete).mem = s.mem := rfl
@[simp] theorem State.onComplete_waitHold (s : State) : (s.onComplete).waitHold = s.waitHold := rfl
@[simp] theorem State.onComplete_fillSlot (s : State) : (s.onComplete).fillSlot = s.fillSlot := rfl
@[simp] theorem State.onComplete_filled (s : State) : (s.onComplete).filled = s.filled := rfl
@[simp] theorem State.onComplete_fxw (s : State) : (s.onComplete).fxw = s.fxw := rfl
@[simp] theorem State.onComplete_turns (s : State) : (s.onComplete).turns = s.turns := rfl
@[simp] theorem State.onComplete_hostOps (s : State) : (s.onComplete).hostOps = s.hostOps := rfl
@[simp] theorem State.onComplete_transportOps (s : State) : (s.onComplete).transportOps = s.transportOps := rfl
@[simp] theorem State.onComplete_busReads (s : State) : (s.onComplete).busReads = s.busReads := rfl
@[simp] theorem State.onComplete_drained (s : State) : (s.onComplete).drained = s.drained := rfl
@[simp] theorem State.onComplete_emits (s : State) : (s.onComplete).emits = s.emits := rfl

/-! ## `transportRise` -/

@[simp] theorem State.transportRise_arg0 (s : State) : (s.transportRise).arg0 = s.arg0 := rfl
@[simp] theorem State.transportRise_arg1 (s : State) : (s.transportRise).arg1 = s.arg1 := rfl
@[simp] theorem State.transportRise_arg2 (s : State) : (s.transportRise).arg2 = s.arg2 := rfl
@[simp] theorem State.transportRise_arg3 (s : State) : (s.transportRise).arg3 = s.arg3 := rfl
@[simp] theorem State.transportRise_status (s : State) : (s.transportRise).status = s.status := rfl
@[simp] theorem State.transportRise_res (s : State) : (s.transportRise).res = s.res := rfl
@[simp] theorem State.transportRise_phase (s : State) : (s.transportRise).phase = s.phase := rfl
@[simp] theorem State.transportRise_cp (s : State) : (s.transportRise).cp = s.cp := rfl
@[simp] theorem State.transportRise_descLeft (s : State) : (s.transportRise).descLeft = s.descLeft := rfl
@[simp] theorem State.transportRise_lapsLeft (s : State) : (s.transportRise).lapsLeft = s.lapsLeft := rfl
@[simp] theorem State.transportRise_jobCI (s : State) : (s.transportRise).jobCI = s.jobCI := rfl
@[simp] theorem State.transportRise_jobAI (s : State) : (s.transportRise).jobAI = s.jobAI := rfl
@[simp] theorem State.transportRise_blockReady (s : State) : (s.transportRise).blockReady = s.blockReady := rfl
@[simp] theorem State.transportRise_processingActive (s : State) : (s.transportRise).processingActive = s.processingActive := rfl
@[simp] theorem State.transportRise_filterDone (s : State) : (s.transportRise).filterDone = s.filterDone := rfl
@[simp] theorem State.transportRise_accelBusy (s : State) : (s.transportRise).accelBusy = s.accelBusy := rfl
@[simp] theorem State.transportRise_cfgError (s : State) : (s.transportRise).cfgError = s.cfgError := rfl
@[simp] theorem State.transportRise_busFault (s : State) : (s.transportRise).busFault = s.busFault := rfl
@[simp] theorem State.transportRise_protoFault (s : State) : (s.transportRise).protoFault = s.protoFault := rfl
@[simp] theorem State.transportRise_run (s : State) : (s.transportRise).run = s.run := rfl
@[simp] theorem State.transportRise_mode (s : State) : (s.transportRise).mode = s.mode := rfl
@[simp] theorem State.transportRise_nch (s : State) : (s.transportRise).nch = s.nch := rfl
@[simp] theorem State.transportRise_bsize (s : State) : (s.transportRise).bsize = s.bsize := rfl
@[simp] theorem State.transportRise_iter (s : State) : (s.transportRise).iter = s.iter := rfl
@[simp] theorem State.transportRise_firHead (s : State) : (s.transportRise).firHead = s.firHead := rfl
@[simp] theorem State.transportRise_rxSlot (s : State) : (s.transportRise).rxSlot = s.rxSlot := rfl
@[simp] theorem State.transportRise_curSlot (s : State) : (s.transportRise).curSlot = s.curSlot := rfl
@[simp] theorem State.transportRise_overrunCount (s : State) : (s.transportRise).overrunCount = s.overrunCount := rfl
@[simp] theorem State.transportRise_blockCount (s : State) : (s.transportRise).blockCount = s.blockCount := rfl
@[simp] theorem State.transportRise_satCount (s : State) : (s.transportRise).satCount = s.satCount := rfl
@[simp] theorem State.transportRise_chcfg (s : State) : (s.transportRise).chcfg = s.chcfg := rfl
@[simp] theorem State.transportRise_mem (s : State) : (s.transportRise).mem = s.mem := rfl
@[simp] theorem State.transportRise_waitHold (s : State) : (s.transportRise).waitHold = s.waitHold := rfl
@[simp] theorem State.transportRise_fillSlot (s : State) : (s.transportRise).fillSlot = 0 := rfl
@[simp] theorem State.transportRise_filled (s : State) : (s.transportRise).filled = [] := rfl
@[simp] theorem State.transportRise_fxw (s : State) : (s.transportRise).fxw = s.fxw := rfl
@[simp] theorem State.transportRise_turns (s : State) : (s.transportRise).turns = s.turns := rfl
@[simp] theorem State.transportRise_hostOps (s : State) : (s.transportRise).hostOps = s.hostOps := rfl
@[simp] theorem State.transportRise_transportOps (s : State) : (s.transportRise).transportOps = s.transportOps := rfl
@[simp] theorem State.transportRise_busReads (s : State) : (s.transportRise).busReads = s.busReads := rfl
@[simp] theorem State.transportRise_drained (s : State) : (s.transportRise).drained = s.drained := rfl
@[simp] theorem State.transportRise_emits (s : State) : (s.transportRise).emits = s.emits := rfl

/-! ## `hardwareReset` -/

@[simp] theorem State.hardwareReset_arg0 (s : State) : (s.hardwareReset).arg0 = State.reset.arg0 := rfl
@[simp] theorem State.hardwareReset_arg1 (s : State) : (s.hardwareReset).arg1 = State.reset.arg1 := rfl
@[simp] theorem State.hardwareReset_arg2 (s : State) : (s.hardwareReset).arg2 = State.reset.arg2 := rfl
@[simp] theorem State.hardwareReset_arg3 (s : State) : (s.hardwareReset).arg3 = State.reset.arg3 := rfl
@[simp] theorem State.hardwareReset_status (s : State) : (s.hardwareReset).status = State.reset.status := rfl
@[simp] theorem State.hardwareReset_res (s : State) : (s.hardwareReset).res = State.reset.res := rfl
@[simp] theorem State.hardwareReset_phase (s : State) : (s.hardwareReset).phase = State.reset.phase := rfl
@[simp] theorem State.hardwareReset_cp (s : State) : (s.hardwareReset).cp = State.reset.cp := rfl
@[simp] theorem State.hardwareReset_descLeft (s : State) : (s.hardwareReset).descLeft = State.reset.descLeft := rfl
@[simp] theorem State.hardwareReset_lapsLeft (s : State) : (s.hardwareReset).lapsLeft = State.reset.lapsLeft := rfl
@[simp] theorem State.hardwareReset_jobCI (s : State) : (s.hardwareReset).jobCI = State.reset.jobCI := rfl
@[simp] theorem State.hardwareReset_jobAI (s : State) : (s.hardwareReset).jobAI = State.reset.jobAI := rfl
@[simp] theorem State.hardwareReset_blockReady (s : State) : (s.hardwareReset).blockReady = State.reset.blockReady := rfl
@[simp] theorem State.hardwareReset_processingActive (s : State) : (s.hardwareReset).processingActive = State.reset.processingActive := rfl
@[simp] theorem State.hardwareReset_filterDone (s : State) : (s.hardwareReset).filterDone = State.reset.filterDone := rfl
@[simp] theorem State.hardwareReset_accelBusy (s : State) : (s.hardwareReset).accelBusy = State.reset.accelBusy := rfl
@[simp] theorem State.hardwareReset_cfgError (s : State) : (s.hardwareReset).cfgError = State.reset.cfgError := rfl
@[simp] theorem State.hardwareReset_busFault (s : State) : (s.hardwareReset).busFault = State.reset.busFault := rfl
@[simp] theorem State.hardwareReset_protoFault (s : State) : (s.hardwareReset).protoFault = State.reset.protoFault := rfl
@[simp] theorem State.hardwareReset_run (s : State) : (s.hardwareReset).run = State.reset.run := rfl
@[simp] theorem State.hardwareReset_mode (s : State) : (s.hardwareReset).mode = State.reset.mode := rfl
@[simp] theorem State.hardwareReset_nch (s : State) : (s.hardwareReset).nch = State.reset.nch := rfl
@[simp] theorem State.hardwareReset_bsize (s : State) : (s.hardwareReset).bsize = State.reset.bsize := rfl
@[simp] theorem State.hardwareReset_iter (s : State) : (s.hardwareReset).iter = State.reset.iter := rfl
@[simp] theorem State.hardwareReset_firHead (s : State) : (s.hardwareReset).firHead = State.reset.firHead := rfl
@[simp] theorem State.hardwareReset_rxSlot (s : State) : (s.hardwareReset).rxSlot = State.reset.rxSlot := rfl
@[simp] theorem State.hardwareReset_curSlot (s : State) : (s.hardwareReset).curSlot = State.reset.curSlot := rfl
@[simp] theorem State.hardwareReset_overrunCount (s : State) : (s.hardwareReset).overrunCount = State.reset.overrunCount := rfl
@[simp] theorem State.hardwareReset_blockCount (s : State) : (s.hardwareReset).blockCount = State.reset.blockCount := rfl
@[simp] theorem State.hardwareReset_satCount (s : State) : (s.hardwareReset).satCount = State.reset.satCount := rfl
@[simp] theorem State.hardwareReset_chcfg (s : State) : (s.hardwareReset).chcfg = State.reset.chcfg := rfl
@[simp] theorem State.hardwareReset_mem (s : State) : (s.hardwareReset).mem = s.mem := rfl
@[simp] theorem State.hardwareReset_waitHold (s : State) : (s.hardwareReset).waitHold = State.reset.waitHold := rfl
@[simp] theorem State.hardwareReset_fillSlot (s : State) : (s.hardwareReset).fillSlot = s.fillSlot := rfl
@[simp] theorem State.hardwareReset_filled (s : State) : (s.hardwareReset).filled = s.filled := rfl
@[simp] theorem State.hardwareReset_fxw (s : State) : (s.hardwareReset).fxw = s.fxw := rfl
@[simp] theorem State.hardwareReset_turns (s : State) : (s.hardwareReset).turns = s.turns := rfl
@[simp] theorem State.hardwareReset_hostOps (s : State) : (s.hardwareReset).hostOps = s.hostOps := rfl
@[simp] theorem State.hardwareReset_transportOps (s : State) : (s.hardwareReset).transportOps = s.transportOps := rfl
@[simp] theorem State.hardwareReset_busReads (s : State) : (s.hardwareReset).busReads = s.busReads := rfl
@[simp] theorem State.hardwareReset_drained (s : State) : (s.hardwareReset).drained = s.drained := rfl
@[simp] theorem State.hardwareReset_emits (s : State) : (s.hardwareReset).emits = State.reset.emits := rfl

/-! ## `stageAll` and `captureAll` -/

@[simp] theorem State.stageAll_arg0 (s : State) : (s.stageAll).arg0 = s.arg0 := rfl
@[simp] theorem State.stageAll_arg1 (s : State) : (s.stageAll).arg1 = s.arg1 := rfl
@[simp] theorem State.stageAll_arg2 (s : State) : (s.stageAll).arg2 = s.arg2 := rfl
@[simp] theorem State.stageAll_arg3 (s : State) : (s.stageAll).arg3 = s.arg3 := rfl
@[simp] theorem State.stageAll_status (s : State) : (s.stageAll).status = s.status := rfl
@[simp] theorem State.stageAll_res (s : State) : (s.stageAll).res = s.res := rfl
@[simp] theorem State.stageAll_phase (s : State) : (s.stageAll).phase = s.phase := rfl
@[simp] theorem State.stageAll_cp (s : State) : (s.stageAll).cp = s.cp := rfl
@[simp] theorem State.stageAll_descLeft (s : State) : (s.stageAll).descLeft = s.descLeft := rfl
@[simp] theorem State.stageAll_lapsLeft (s : State) : (s.stageAll).lapsLeft = s.lapsLeft := rfl
@[simp] theorem State.stageAll_jobCI (s : State) : (s.stageAll).jobCI = s.jobCI := rfl
@[simp] theorem State.stageAll_jobAI (s : State) : (s.stageAll).jobAI = s.jobAI := rfl
@[simp] theorem State.stageAll_blockReady (s : State) : (s.stageAll).blockReady = s.blockReady := rfl
@[simp] theorem State.stageAll_processingActive (s : State) : (s.stageAll).processingActive = s.processingActive := rfl
@[simp] theorem State.stageAll_filterDone (s : State) : (s.stageAll).filterDone = s.filterDone := rfl
@[simp] theorem State.stageAll_accelBusy (s : State) : (s.stageAll).accelBusy = s.accelBusy := rfl
@[simp] theorem State.stageAll_cfgError (s : State) : (s.stageAll).cfgError = s.cfgError := rfl
@[simp] theorem State.stageAll_busFault (s : State) : (s.stageAll).busFault = s.busFault := rfl
@[simp] theorem State.stageAll_protoFault (s : State) : (s.stageAll).protoFault = s.protoFault := rfl
@[simp] theorem State.stageAll_run (s : State) : (s.stageAll).run = s.run := rfl
@[simp] theorem State.stageAll_mode (s : State) : (s.stageAll).mode = s.mode := rfl
@[simp] theorem State.stageAll_nch (s : State) : (s.stageAll).nch = s.nch := rfl
@[simp] theorem State.stageAll_bsize (s : State) : (s.stageAll).bsize = s.bsize := rfl
@[simp] theorem State.stageAll_iter (s : State) : (s.stageAll).iter = s.iter := rfl
@[simp] theorem State.stageAll_firHead (s : State) : (s.stageAll).firHead = s.firHead := rfl
@[simp] theorem State.stageAll_rxSlot (s : State) : (s.stageAll).rxSlot = s.rxSlot := rfl
@[simp] theorem State.stageAll_curSlot (s : State) : (s.stageAll).curSlot = s.curSlot := rfl
@[simp] theorem State.stageAll_overrunCount (s : State) : (s.stageAll).overrunCount = s.overrunCount := rfl
@[simp] theorem State.stageAll_blockCount (s : State) : (s.stageAll).blockCount = s.blockCount := rfl
@[simp] theorem State.stageAll_satCount (s : State) : (s.stageAll).satCount = s.satCount := rfl
@[simp] theorem State.stageAll_chcfg (s : State) : (s.stageAll).chcfg = s.chcfg := rfl
@[simp] theorem State.stageAll_waitHold (s : State) : (s.stageAll).waitHold = s.waitHold := rfl
@[simp] theorem State.stageAll_fillSlot (s : State) : (s.stageAll).fillSlot = s.fillSlot := rfl
@[simp] theorem State.stageAll_filled (s : State) : (s.stageAll).filled = s.filled := rfl
@[simp] theorem State.stageAll_fxw (s : State) : (s.stageAll).fxw = s.fxw := rfl
@[simp] theorem State.stageAll_turns (s : State) : (s.stageAll).turns = s.turns := rfl
@[simp] theorem State.stageAll_hostOps (s : State) : (s.stageAll).hostOps = s.hostOps := rfl
@[simp] theorem State.stageAll_transportOps (s : State) : (s.stageAll).transportOps = s.transportOps := rfl
@[simp] theorem State.stageAll_busReads (s : State) : (s.stageAll).busReads = s.busReads := rfl
@[simp] theorem State.stageAll_drained (s : State) : (s.stageAll).drained = s.drained := rfl
@[simp] theorem State.stageAll_emits (s : State) : (s.stageAll).emits = s.emits := rfl

@[simp] theorem State.captureAll_arg0 (s : State) : (s.captureAll).arg0 = s.arg0 := rfl
@[simp] theorem State.captureAll_arg1 (s : State) : (s.captureAll).arg1 = s.arg1 := rfl
@[simp] theorem State.captureAll_arg2 (s : State) : (s.captureAll).arg2 = s.arg2 := rfl
@[simp] theorem State.captureAll_arg3 (s : State) : (s.captureAll).arg3 = s.arg3 := rfl
@[simp] theorem State.captureAll_status (s : State) : (s.captureAll).status = s.status := rfl
@[simp] theorem State.captureAll_res (s : State) : (s.captureAll).res = s.res := rfl
@[simp] theorem State.captureAll_phase (s : State) : (s.captureAll).phase = s.phase := rfl
@[simp] theorem State.captureAll_cp (s : State) : (s.captureAll).cp = s.cp := rfl
@[simp] theorem State.captureAll_descLeft (s : State) : (s.captureAll).descLeft = s.descLeft := rfl
@[simp] theorem State.captureAll_lapsLeft (s : State) : (s.captureAll).lapsLeft = s.lapsLeft := rfl
@[simp] theorem State.captureAll_jobCI (s : State) : (s.captureAll).jobCI = s.jobCI := rfl
@[simp] theorem State.captureAll_jobAI (s : State) : (s.captureAll).jobAI = s.jobAI := rfl
@[simp] theorem State.captureAll_blockReady (s : State) : (s.captureAll).blockReady = s.blockReady := rfl
@[simp] theorem State.captureAll_processingActive (s : State) : (s.captureAll).processingActive = s.processingActive := rfl
@[simp] theorem State.captureAll_filterDone (s : State) : (s.captureAll).filterDone = s.filterDone := rfl
@[simp] theorem State.captureAll_accelBusy (s : State) : (s.captureAll).accelBusy = s.accelBusy := rfl
@[simp] theorem State.captureAll_cfgError (s : State) : (s.captureAll).cfgError = s.cfgError := rfl
@[simp] theorem State.captureAll_busFault (s : State) : (s.captureAll).busFault = s.busFault := rfl
@[simp] theorem State.captureAll_protoFault (s : State) : (s.captureAll).protoFault = s.protoFault := rfl
@[simp] theorem State.captureAll_run (s : State) : (s.captureAll).run = s.run := rfl
@[simp] theorem State.captureAll_mode (s : State) : (s.captureAll).mode = s.mode := rfl
@[simp] theorem State.captureAll_nch (s : State) : (s.captureAll).nch = s.nch := rfl
@[simp] theorem State.captureAll_bsize (s : State) : (s.captureAll).bsize = s.bsize := rfl
@[simp] theorem State.captureAll_iter (s : State) : (s.captureAll).iter = s.iter := rfl
@[simp] theorem State.captureAll_firHead (s : State) : (s.captureAll).firHead = s.firHead := rfl
@[simp] theorem State.captureAll_rxSlot (s : State) : (s.captureAll).rxSlot = s.rxSlot := rfl
@[simp] theorem State.captureAll_curSlot (s : State) : (s.captureAll).curSlot = s.curSlot := rfl
@[simp] theorem State.captureAll_overrunCount (s : State) : (s.captureAll).overrunCount = s.overrunCount := rfl
@[simp] theorem State.captureAll_blockCount (s : State) : (s.captureAll).blockCount = s.blockCount := rfl
@[simp] theorem State.captureAll_satCount (s : State) : (s.captureAll).satCount = s.satCount := rfl
@[simp] theorem State.captureAll_chcfg (s : State) : (s.captureAll).chcfg = s.chcfg := rfl
@[simp] theorem State.captureAll_waitHold (s : State) : (s.captureAll).waitHold = s.waitHold := rfl
@[simp] theorem State.captureAll_fillSlot (s : State) : (s.captureAll).fillSlot = s.fillSlot := rfl
@[simp] theorem State.captureAll_filled (s : State) : (s.captureAll).filled = s.filled := rfl
@[simp] theorem State.captureAll_fxw (s : State) : (s.captureAll).fxw = s.fxw := rfl
@[simp] theorem State.captureAll_turns (s : State) : (s.captureAll).turns = s.turns := rfl
@[simp] theorem State.captureAll_hostOps (s : State) : (s.captureAll).hostOps = s.hostOps := rfl
@[simp] theorem State.captureAll_transportOps (s : State) : (s.captureAll).transportOps = s.transportOps := rfl
@[simp] theorem State.captureAll_busReads (s : State) : (s.captureAll).busReads = s.busReads := rfl
@[simp] theorem State.captureAll_drained (s : State) : (s.captureAll).drained = s.drained := rfl
@[simp] theorem State.captureAll_emits (s : State) : (s.captureAll).emits = s.emits := rfl

/-! ## `stepS1`, `stepS4`, `stepS4V` -/

@[simp] theorem State.stepS1_arg0 (s : State) : (s.stepS1).arg0 = s.arg0 := rfl
@[simp] theorem State.stepS1_arg1 (s : State) : (s.stepS1).arg1 = s.arg1 := rfl
@[simp] theorem State.stepS1_arg2 (s : State) : (s.stepS1).arg2 = s.arg2 := rfl
@[simp] theorem State.stepS1_arg3 (s : State) : (s.stepS1).arg3 = s.arg3 := rfl
@[simp] theorem State.stepS1_status (s : State) : (s.stepS1).status = s.status := rfl
@[simp] theorem State.stepS1_res (s : State) : (s.stepS1).res = s.res := rfl
@[simp] theorem State.stepS1_phase (s : State) : (s.stepS1).phase = .converting := rfl
@[simp] theorem State.stepS1_cp (s : State) : (s.stepS1).cp = s.cp := rfl
@[simp] theorem State.stepS1_descLeft (s : State) : (s.stepS1).descLeft = s.descLeft := rfl
@[simp] theorem State.stepS1_lapsLeft (s : State) : (s.stepS1).lapsLeft = s.lapsLeft := rfl
@[simp] theorem State.stepS1_jobCI (s : State) : (s.stepS1).jobCI = s.jobCI := rfl
@[simp] theorem State.stepS1_jobAI (s : State) : (s.stepS1).jobAI = s.jobAI := rfl
@[simp] theorem State.stepS1_blockReady (s : State) : (s.stepS1).blockReady = false := rfl
@[simp] theorem State.stepS1_processingActive (s : State) : (s.stepS1).processingActive = true := rfl
@[simp] theorem State.stepS1_filterDone (s : State) : (s.stepS1).filterDone = s.filterDone := rfl
@[simp] theorem State.stepS1_accelBusy (s : State) : (s.stepS1).accelBusy = s.accelBusy := rfl
@[simp] theorem State.stepS1_cfgError (s : State) : (s.stepS1).cfgError = s.cfgError := rfl
@[simp] theorem State.stepS1_busFault (s : State) : (s.stepS1).busFault = s.busFault := rfl
@[simp] theorem State.stepS1_protoFault (s : State) : (s.stepS1).protoFault = s.protoFault := rfl
@[simp] theorem State.stepS1_run (s : State) : (s.stepS1).run = s.run := rfl
@[simp] theorem State.stepS1_mode (s : State) : (s.stepS1).mode = s.mode := rfl
@[simp] theorem State.stepS1_nch (s : State) : (s.stepS1).nch = s.nch := rfl
@[simp] theorem State.stepS1_bsize (s : State) : (s.stepS1).bsize = s.bsize := rfl
@[simp] theorem State.stepS1_iter (s : State) : (s.stepS1).iter = s.iter := rfl
@[simp] theorem State.stepS1_firHead (s : State) : (s.stepS1).firHead = s.firHead := rfl
@[simp] theorem State.stepS1_rxSlot (s : State) : (s.stepS1).rxSlot = s.rxSlot := rfl
@[simp] theorem State.stepS1_curSlot (s : State) : (s.stepS1).curSlot = s.rxSlot := rfl
@[simp] theorem State.stepS1_overrunCount (s : State) : (s.stepS1).overrunCount = s.overrunCount := rfl
@[simp] theorem State.stepS1_blockCount (s : State) : (s.stepS1).blockCount = s.blockCount := rfl
@[simp] theorem State.stepS1_satCount (s : State) : (s.stepS1).satCount = s.satCount := rfl
@[simp] theorem State.stepS1_chcfg (s : State) : (s.stepS1).chcfg = s.chcfg := rfl
@[simp] theorem State.stepS1_mem (s : State) : (s.stepS1).mem = s.mem := rfl
@[simp] theorem State.stepS1_waitHold (s : State) : (s.stepS1).waitHold = s.waitHold := rfl
@[simp] theorem State.stepS1_fillSlot (s : State) : (s.stepS1).fillSlot = s.fillSlot := rfl
@[simp] theorem State.stepS1_filled (s : State) : (s.stepS1).filled = s.filled := rfl
@[simp] theorem State.stepS1_fxw (s : State) : (s.stepS1).fxw = s.fxw := rfl
@[simp] theorem State.stepS1_turns (s : State) : (s.stepS1).turns = s.turns := rfl
@[simp] theorem State.stepS1_hostOps (s : State) : (s.stepS1).hostOps = s.hostOps := rfl
@[simp] theorem State.stepS1_transportOps (s : State) : (s.stepS1).transportOps = s.transportOps := rfl
@[simp] theorem State.stepS1_busReads (s : State) : (s.stepS1).busReads = s.busReads := rfl
@[simp] theorem State.stepS1_drained (s : State) : (s.stepS1).drained = s.drained := rfl
@[simp] theorem State.stepS1_emits (s : State) : (s.stepS1).emits = s.emits := rfl

@[simp] theorem State.stepS4_arg0 (s : State) : (s.stepS4).arg0 = s.arg0 := rfl
@[simp] theorem State.stepS4_arg1 (s : State) : (s.stepS4).arg1 = s.arg1 := rfl
@[simp] theorem State.stepS4_arg2 (s : State) : (s.stepS4).arg2 = s.arg2 := rfl
@[simp] theorem State.stepS4_arg3 (s : State) : (s.stepS4).arg3 = s.arg3 := rfl
@[simp] theorem State.stepS4_status (s : State) : (s.stepS4).status = s.status := rfl
@[simp] theorem State.stepS4_res (s : State) : (s.stepS4).res = s.res := rfl
@[simp] theorem State.stepS4_phase (s : State) : (s.stepS4).phase = .emitting := rfl
@[simp] theorem State.stepS4_cp (s : State) : (s.stepS4).cp = s.cp := rfl
@[simp] theorem State.stepS4_descLeft (s : State) : (s.stepS4).descLeft = s.descLeft := rfl
@[simp] theorem State.stepS4_lapsLeft (s : State) : (s.stepS4).lapsLeft = s.lapsLeft := rfl
@[simp] theorem State.stepS4_jobCI (s : State) : (s.stepS4).jobCI = s.jobCI := rfl
@[simp] theorem State.stepS4_jobAI (s : State) : (s.stepS4).jobAI = s.jobAI := rfl
@[simp] theorem State.stepS4_blockReady (s : State) : (s.stepS4).blockReady = s.blockReady := rfl
@[simp] theorem State.stepS4_processingActive (s : State) : (s.stepS4).processingActive = s.processingActive := rfl
@[simp] theorem State.stepS4_filterDone (s : State) : (s.stepS4).filterDone = false := rfl
@[simp] theorem State.stepS4_accelBusy (s : State) : (s.stepS4).accelBusy = s.accelBusy := rfl
@[simp] theorem State.stepS4_cfgError (s : State) : (s.stepS4).cfgError = s.cfgError := rfl
@[simp] theorem State.stepS4_busFault (s : State) : (s.stepS4).busFault = s.busFault := rfl
@[simp] theorem State.stepS4_protoFault (s : State) : (s.stepS4).protoFault = s.protoFault := rfl
@[simp] theorem State.stepS4_run (s : State) : (s.stepS4).run = s.run := rfl
@[simp] theorem State.stepS4_mode (s : State) : (s.stepS4).mode = s.mode := rfl
@[simp] theorem State.stepS4_nch (s : State) : (s.stepS4).nch = s.nch := rfl
@[simp] theorem State.stepS4_bsize (s : State) : (s.stepS4).bsize = s.bsize := rfl
@[simp] theorem State.stepS4_iter (s : State) : (s.stepS4).iter = s.iter := rfl
@[simp] theorem State.stepS4_firHead (s : State) : (s.stepS4).firHead = s.firHead := rfl
@[simp] theorem State.stepS4_rxSlot (s : State) : (s.stepS4).rxSlot = s.rxSlot := rfl
@[simp] theorem State.stepS4_curSlot (s : State) : (s.stepS4).curSlot = s.curSlot := rfl
@[simp] theorem State.stepS4_overrunCount (s : State) : (s.stepS4).overrunCount = s.overrunCount := rfl
@[simp] theorem State.stepS4_blockCount (s : State) : (s.stepS4).blockCount = s.blockCount := rfl
@[simp] theorem State.stepS4_satCount (s : State) : (s.stepS4).satCount = s.satCount := rfl
@[simp] theorem State.stepS4_chcfg (s : State) : (s.stepS4).chcfg = s.chcfg := rfl
@[simp] theorem State.stepS4_mem (s : State) : (s.stepS4).mem = s.mem := rfl
@[simp] theorem State.stepS4_waitHold (s : State) : (s.stepS4).waitHold = s.waitHold := rfl
@[simp] theorem State.stepS4_fillSlot (s : State) : (s.stepS4).fillSlot = s.fillSlot := rfl
@[simp] theorem State.stepS4_filled (s : State) : (s.stepS4).filled = s.filled := rfl
@[simp] theorem State.stepS4_fxw (s : State) : (s.stepS4).fxw = s.fxw := rfl
@[simp] theorem State.stepS4_turns (s : State) : (s.stepS4).turns = s.turns := rfl
@[simp] theorem State.stepS4_hostOps (s : State) : (s.stepS4).hostOps = s.hostOps := rfl
@[simp] theorem State.stepS4_transportOps (s : State) : (s.stepS4).transportOps = s.transportOps := rfl
@[simp] theorem State.stepS4_busReads (s : State) : (s.stepS4).busReads = s.busReads := rfl
@[simp] theorem State.stepS4_drained (s : State) : (s.stepS4).drained = s.drained := rfl
@[simp] theorem State.stepS4_emits (s : State) : (s.stepS4).emits = s.emits := rfl

@[simp] theorem State.stepS4V_arg0 (s : State) : (s.stepS4V).arg0 = s.arg0 := rfl
@[simp] theorem State.stepS4V_arg1 (s : State) : (s.stepS4V).arg1 = s.arg1 := rfl
@[simp] theorem State.stepS4V_arg2 (s : State) : (s.stepS4V).arg2 = s.arg2 := rfl
@[simp] theorem State.stepS4V_arg3 (s : State) : (s.stepS4V).arg3 = s.arg3 := rfl
@[simp] theorem State.stepS4V_status (s : State) : (s.stepS4V).status = s.status := rfl
@[simp] theorem State.stepS4V_res (s : State) : (s.stepS4V).res = s.res := rfl
@[simp] theorem State.stepS4V_phase (s : State) : (s.stepS4V).phase = .idle := rfl
@[simp] theorem State.stepS4V_cp (s : State) : (s.stepS4V).cp = s.cp := rfl
@[simp] theorem State.stepS4V_descLeft (s : State) : (s.stepS4V).descLeft = s.descLeft := rfl
@[simp] theorem State.stepS4V_lapsLeft (s : State) : (s.stepS4V).lapsLeft = s.lapsLeft := rfl
@[simp] theorem State.stepS4V_jobCI (s : State) : (s.stepS4V).jobCI = s.jobCI := rfl
@[simp] theorem State.stepS4V_jobAI (s : State) : (s.stepS4V).jobAI = s.jobAI := rfl
@[simp] theorem State.stepS4V_blockReady (s : State) : (s.stepS4V).blockReady = s.blockReady := rfl
@[simp] theorem State.stepS4V_processingActive (s : State) : (s.stepS4V).processingActive = false := rfl
@[simp] theorem State.stepS4V_filterDone (s : State) : (s.stepS4V).filterDone = false := rfl
@[simp] theorem State.stepS4V_accelBusy (s : State) : (s.stepS4V).accelBusy = s.accelBusy := rfl
@[simp] theorem State.stepS4V_cfgError (s : State) : (s.stepS4V).cfgError = s.cfgError := rfl
@[simp] theorem State.stepS4V_busFault (s : State) : (s.stepS4V).busFault = s.busFault := rfl
@[simp] theorem State.stepS4V_protoFault (s : State) : (s.stepS4V).protoFault = s.protoFault := rfl
@[simp] theorem State.stepS4V_run (s : State) : (s.stepS4V).run = false := rfl
@[simp] theorem State.stepS4V_mode (s : State) : (s.stepS4V).mode = s.mode := rfl
@[simp] theorem State.stepS4V_nch (s : State) : (s.stepS4V).nch = s.nch := rfl
@[simp] theorem State.stepS4V_bsize (s : State) : (s.stepS4V).bsize = s.bsize := rfl
@[simp] theorem State.stepS4V_iter (s : State) : (s.stepS4V).iter = s.iter := rfl
@[simp] theorem State.stepS4V_firHead (s : State) : (s.stepS4V).firHead = s.firHead := rfl
@[simp] theorem State.stepS4V_rxSlot (s : State) : (s.stepS4V).rxSlot = s.rxSlot := rfl
@[simp] theorem State.stepS4V_curSlot (s : State) : (s.stepS4V).curSlot = s.curSlot := rfl
@[simp] theorem State.stepS4V_overrunCount (s : State) : (s.stepS4V).overrunCount = s.overrunCount := rfl
@[simp] theorem State.stepS4V_blockCount (s : State) : (s.stepS4V).blockCount = s.blockCount := rfl
@[simp] theorem State.stepS4V_satCount (s : State) : (s.stepS4V).satCount = s.satCount := rfl
@[simp] theorem State.stepS4V_chcfg (s : State) : (s.stepS4V).chcfg = s.chcfg := rfl
@[simp] theorem State.stepS4V_mem (s : State) : (s.stepS4V).mem = s.mem := rfl
@[simp] theorem State.stepS4V_waitHold (s : State) : (s.stepS4V).waitHold = s.waitHold := rfl
@[simp] theorem State.stepS4V_fillSlot (s : State) : (s.stepS4V).fillSlot = s.fillSlot := rfl
@[simp] theorem State.stepS4V_filled (s : State) : (s.stepS4V).filled = s.filled := rfl
@[simp] theorem State.stepS4V_fxw (s : State) : (s.stepS4V).fxw = s.fxw := rfl
@[simp] theorem State.stepS4V_turns (s : State) : (s.stepS4V).turns = s.turns := rfl
@[simp] theorem State.stepS4V_hostOps (s : State) : (s.stepS4V).hostOps = s.hostOps := rfl
@[simp] theorem State.stepS4V_transportOps (s : State) : (s.stepS4V).transportOps = s.transportOps := rfl
@[simp] theorem State.stepS4V_busReads (s : State) : (s.stepS4V).busReads = s.busReads := rfl
@[simp] theorem State.stepS4V_drained (s : State) : (s.stepS4V).drained = s.drained := rfl
@[simp] theorem State.stepS4V_emits (s : State) : (s.stepS4V).emits = s.emits := rfl

end Sys2Proof.Machine
end

