-- ==== Sys2Proof/Laws/Ops.lean ====
section
/-! SUPPORT. For each shared operation, once, everything it can do. -/

namespace Sys2Proof.Machine

/-- `raise Status(code)` (`60_exceptions.md` R271), as one record update. -/
theorem State.raiseStatus_eq (s : State) (code : Status) :
    s.raiseStatus code =
      { s with
        status := code
        res := 0
        cfgError := s.cfgError || decide (code = .errConfig)
        busFault := s.busFault || decide (code = .errBus) } := by
  cases code <;> simp [State.raiseStatus]

/-- `Dispatch()` (`42_fir_engine.md` R175 to R177): overrun, armed or configuration failure. -/
theorem State.dispatchJob_cases (s : State) :
    ((s.accelBusy = true ∨ s.filterDone = true) ∧
      s.dispatchJob = (.errOverrun, { s with overrunCount := satInc s.overrunCount })) ∨
    (s.accelBusy = false ∧ s.filterDone = false ∧ s.chainValid s.firHead = true ∧
      s.dispatchJob =
        (.ok,
          { s with
            jobCI := (s.mem.descriptor s.firHead).ci
            jobAI := (s.mem.descriptor s.firHead).ai
            cp := s.firHead
            descLeft := s.nch.toNat
            lapsLeft := if (s.mem.descriptor s.firHead).ai then s.iter else 1
            accelBusy := true })) ∨
    (s.accelBusy = false ∧ s.filterDone = false ∧ s.chainValid s.firHead = false ∧
      s.dispatchJob = (.errConfig, { s with cfgError := true })) := by
  unfold State.dispatchJob
  cases s.accelBusy <;> cases s.filterDone <;> cases s.chainValid s.firHead <;> simp

/-- The transport completion interrupt (`43_orchestrator.md` R213): masked, protocol fault, or delivered. -/
theorem State.deliver_cases (s : State) (a g : Nat) :
    (s.transportEnable = false ∧ s.deliver a g = s) ∨
    (s.transportEnable = true ∧ (g ≠ 0 ∨ 2 ≤ a) ∧ s.deliver a g = { s with protoFault := true }) ∨
    (s.transportEnable = true ∧ g = 0 ∧ a < 2 ∧
      s.deliver a g =
        { s with
          overrunCount := if s.blockReady || s.processingActive then satInc s.overrunCount else s.overrunCount
          blockCount := satInc s.blockCount
          rxSlot := Fin.ofNat 2 a
          blockReady := true }) := by
  unfold State.deliver
  by_cases h : s.transportEnable = false
  · exact .inl ⟨h, by rw [if_pos h]⟩
  · rw [if_neg h]
    by_cases h' : g ≠ 0 ∨ ¬ a < 2
    · exact .inr (.inl ⟨by simpa using h, by omega, by rw [if_pos h']⟩)
    · exact .inr (.inr ⟨by simpa using h, by omega, by omega, by rw [if_neg h']⟩)

/-- What follows the outputs in X1 (`42_fir_engine.md` R190). -/
theorem State.advanceJob_cases (s : State) (next : Word) :
    (2 ≤ s.descLeft ∧ s.advanceJob next = { s with descLeft := s.descLeft - 1, cp := next }) ∨
    (s.descLeft ≤ 1 ∧ s.lapsLeft ≠ 1 ∧
      s.advanceJob next = { s with lapsLeft := s.lapsLeft - 1, cp := s.firHead, descLeft := s.nch.toNat }) ∨
    (s.descLeft ≤ 1 ∧ s.lapsLeft = 1 ∧
      s.advanceJob next =
        { s with descLeft := 0, lapsLeft := 0, accelBusy := false, filterDone := s.filterDone || s.jobCI }) := by
  unfold State.advanceJob
  by_cases h : 0 < s.descLeft - 1
  · exact .inl ⟨by omega, by rw [if_pos h]⟩
  · rw [if_neg h]
    by_cases hl : s.lapsLeft = 1
    · refine .inr (.inr ⟨by omega, hl, ?_⟩)
      rw [hl, if_neg (by decide)]
      cases hj : s.jobCI <;> simp [State.onComplete]
    · refine .inr (.inl ⟨by omega, hl, ?_⟩)
      rw [if_pos]
      rcases Nat.eq_zero_or_pos (s.lapsLeft - 1).toNat with h0 | h0
      · exfalso
        apply hl
        have h1 : s.lapsLeft - 1 = 0 := BitVec.eq_of_toNat_eq (by simpa using h0)
        exact (BitVec.sub_eq_iff_eq_add.mp h1).trans (by simp)
      · exact h0

/-- X1 (R190, R191): one descriptor processed, or the job aborted. -/
theorem State.stepX1_cases (s : State) :
    (descValid s.mem s.cp = true ∧
      s.stepX1 = State.advanceJob { s with mem := writeOutputs s.mem (s.mem.descriptor s.cp) } (s.mem.readWord s.cp)) ∨
    (descValid s.mem s.cp = false ∧ s.stepX1 = { s with cfgError := true, accelBusy := false }) := by
  unfold State.stepX1
  cases descValid s.mem s.cp <;> simp

/-- The end of `WAITDONE` (R181): the completion is observed, or there is no job. -/
theorem State.finishWait_cases (s : State) :
    (s.filterDone = true ∧ s.finishWait = { s with filterDone := false, waitHold := false, status := .ok, res := 1 }) ∨
    (s.filterDone = false ∧ s.finishWait = { s with waitHold := false, status := .errNoJob, res := 0 }) := by
  unfold State.finishWait
  cases s.filterDone <;> simp [State.complete, State.raiseStatus]

/-- `satInc` counts up to `2^32 - 1` and stays there (`00_scope.md` R11). -/
theorem satInc_toNat (c : Word) : (satInc c).toNat = min (c.toNat + 1) (2 ^ 32 - 1) := by
  unfold satInc
  split_ifs with h
  · subst h; rfl
  · have h' : c.toNat ≠ 2 ^ 32 - 1 := fun e => h (BitVec.eq_of_toNat_eq e)
    have := c.isLt
    rw [BitVec.toNat_add, Nat.min_eq_left (by omega)]
    exact Nat.mod_eq_of_lt (by simp; omega)

/-- What a valid descriptor guarantees of the addresses X1 touches (R172, V1 and V9). -/
theorem descValid_mapped (m : Memory) (a : Word) (h : descValid m a = true) :
    mappedRange a 9 = true ∧ mappedRange (m.descriptor a).coefBase (m.descriptor a).taps = true ∧
      mappedRange (m.descriptor a).inBase (m.descriptor a).inLen.toNat = true ∧
      mappedRange (m.descriptor a).outBase (m.descriptor a).outLen.toNat = true := by
  simp only [descValid, JobDescriptor.rangesValid, Bool.and_eq_true] at h
  exact ⟨h.1.2, h.2.2.1.1.1.1.1, h.2.2.1.1.1.1.2, h.2.2.1.1.1.2⟩

end Sys2Proof.Machine
end

