-- ==== Sys2Proof/Laws/Validity.lean ====
section
/-! SUPPORT. What the range checks, descriptor validity and chain validity say (`42_fir_engine.md` R172, R173). -/

namespace Sys2Proof.Machine

theorem inRange_iff (v : Word) (bound : Nat) : inRange v bound = true ↔ 1 ≤ v.toNat ∧ v.toNat ≤ bound := by simp [inRange]

theorem unitStride_toNat_sub (a b : Word) : unitStride a (b - a).toNat = b := by
  rw [unitStride, BitVec.ofNat_toNat, BitVec.setWidth_eq, BitVec.add_comm, BitVec.sub_add_cancel]

/-- Where two runs meet, the later offset of the one gives the start of the other. -/
theorem unitStride_cancel (a b : Word) (i j : Nat) (hij : j ≤ i) (h : unitStride a i = unitStride b j) :
    b - a = BitVec.ofNat 32 (i - j) := by
  have e : unitStride (unitStride a (i - j)) j = unitStride b j := by
    rw [unitStride_unitStride, Nat.sub_add_cancel hij, h]
  have e' : unitStride a (i - j) = b := (BitVec.add_left_inj _).mp e
  rw [← e', unitStride, BitVec.add_comm, BitVec.add_sub_cancel]

/-- `runsDisjoint` says that two non-empty runs of consecutive addresses share none (R172, V10 and V11). -/
theorem runsDisjoint_iff (a : Word) (n : Nat) (b : Word) (k : Nat) (hn : 1 ≤ n) (hk : 1 ≤ k) :
    runsDisjoint a n b k = true ↔ ∀ i, i < n → ∀ j, j < k → unitStride a i ≠ unitStride b j := by
  simp only [runsDisjoint, Bool.and_eq_true, decide_eq_true_eq]
  constructor
  · rintro ⟨h1, h2⟩ i hi j hj h
    rcases Nat.le_total j i with hij | hij
    · have := unitStride_cancel a b i j hij h
      rw [this, BitVec.toNat_ofNat] at h1
      have := Nat.mod_le (i - j) (2 ^ 32)
      omega
    · have := unitStride_cancel b a j i hij h.symm
      rw [this, BitVec.toNat_ofNat] at h2
      have := Nat.mod_le (j - i) (2 ^ 32)
      omega
  · intro h
    constructor
    · by_contra hc
      exact h (b - a).toNat (by omega) 0 hk (by rw [unitStride_toNat_sub, unitStride_zero])
    · by_contra hc
      exact h 0 hn (a - b).toNat (by omega) (by rw [unitStride_toNat_sub, unitStride_zero])

/-- The walk of a chain as a list (R173, C2). -/
theorem chainAddrs_eq (m : Memory) (h : Word) (n : Nat) : chainAddrs m h n = (List.range n).map (chainAddr m h) := by
  induction n generalizing h with
  | zero => rfl
  | succ n ih =>
    have e : ∀ i, chainAddr m (m.readWord h) i = chainAddr m h (i + 1) := by
      intro i
      induction i with
      | zero => rfl
      | succ i ih => exact congrArg m.readWord ih
    rw [chainAddrs, ih, List.range_succ_eq_map, List.map_cons, List.map_map]
    congr 1
    exact List.map_congr_left fun i _ => e i

theorem chainValid_nch (s : State) (h : Word) (hv : s.chainValid h = true) : s.nchLegal = true := by
  simp only [State.chainValid, Bool.and_eq_true] at hv
  exact hv.1.1.1.1.1

theorem chainValid_iter (s : State) (h : Word) (hv : s.chainValid h = true) (ha : (s.mem.descriptor h).ai = true) :
    1 ≤ s.iter.toNat := by
  simp only [State.chainValid, Bool.and_eq_true, Bool.or_eq_true] at hv
  rcases hv.1.2 with h | h
  · simp [ha] at h
  · simpa using h

end Sys2Proof.Machine
end

