-- ==== Sys2Proof/Laws/Map.lean ====
section
/-! SUPPORT. The unit functions write only mapped words (`20_memory.md` R76) and keep the memory's form. -/

namespace Sys2Proof.Machine

theorem copyWords_inMap (dst src : Word) (n : Nat) (m : Memory) (h : m.inMap) (ha : mappedRange dst n = true) :
    (copyWords dst src n m).inMap :=
  writeLoop_inMap _ _ _ _ h ((mappedRange_iff _ _).mp ha)

theorem mappedRange_split (a : Word) (n k : Nat) (h : mappedRange a (n + k) = true) :
    mappedRange a n = true ∧ mappedRange (unitStride a n) k = true := by
  simp only [mappedRange_iff, unitStride_unitStride] at *
  exact ⟨fun i hi => h i (by omega), fun i hi => h (n + i) (by omega)⟩

theorem stageWords_inMap (c h b : Nat) (m : Memory) (hm : m.inMap) (ha : stagerMapped c h b = true) :
    (stageWords c h b m).inMap := by
  simp only [stagerMapped, Bool.and_eq_true] at ha
  obtain ⟨h1, h2⟩ := mappedRange_split _ _ _ ha.1.2
  exact copyWords_inMap _ _ _ _ (copyWords_inMap _ _ _ _ hm h1) h2

theorem captureWords_inMap (c h b : Nat) (m : Memory) (hm : m.inMap) (ha : stagerMapped c h b = true) :
    (captureWords c h b m).inMap := by
  simp only [stagerMapped, Bool.and_eq_true] at ha
  exact copyWords_inMap _ _ _ _ hm ha.1.1

theorem convertToFloat_inMap (fxw : Nat) (dst src stride : Word) (len : Nat) (m : Memory) (hm : m.inMap)
    (ha : toFloatMapped dst src stride len = true) : (convertToFloat fxw dst src stride len m).inMap := by
  simp only [toFloatMapped, allBelow_iff, Bool.and_eq_true] at ha
  exact writeLoop_inMap _ _ _ _ hm fun i hi => (ha i hi).2

theorem convertToFixed_inMap (fxw : Nat) (dst src stride : Word) (len : Nat) (p : Memory × Word) (hm : p.1.inMap)
    (ha : toFixedMapped dst src stride len = true) : (convertToFixed fxw dst src stride len p).1.inMap := by
  simp only [toFixedMapped, allBelow_iff, Bool.and_eq_true] at ha
  rw [convertToFixed_mem]
  exact writeLoop_inMap _ _ _ _ hm fun i hi => (ha i hi).1

theorem zeroWords_wf (a : Word) (n : Nat) (m : Memory) (h : m.wf = true) : (zeroWords a n m).wf = true :=
  writeLoop_wf _ _ _ _ h

theorem zeroWords_inMap (a : Word) (n : Nat) (m : Memory) (h : m.inMap) (ha : mappedRange a n = true) :
    (zeroWords a n m).inMap :=
  writeLoop_inMap _ _ _ _ h ((mappedRange_iff _ _).mp ha)

theorem writeOutputs_wf (m : Memory) (d : JobDescriptor) (h : m.wf = true) : (writeOutputs m d).wf = true :=
  writeLoop_wf _ _ (fun n _ => firDot m d n) _ h

theorem writeOutputs_inMap (m : Memory) (d : JobDescriptor) (h : m.inMap)
    (ha : mappedRange d.outBase d.outLen.toNat = true) : (writeOutputs m d).inMap :=
  writeLoop_inMap _ _ (fun n _ => firDot m d n) _ h ((mappedRange_iff _ _).mp ha)

/-- An output word of X1, computed from the memory at the start of the step (`42_fir_engine.md` R190). -/
theorem writeOutputs_readWord (m : Memory) (d : JobDescriptor) (n : Nat) (hn : n < d.outLen.toNat) :
    (writeOutputs m d).readWord (unitStride d.outBase n) = firDot m d n := by
  rw [writeOutputs_eq]
  exact writeLoop_readWord _ (unitStride d.outBase) (fun n _ => firDot m d n) m n hn fun j hj hjn e => by
    have := unitStride_inj d.outBase j n (by omega) (by omega) e
    omega

theorem writeOutputs_byteAt (m : Memory) (d : JobDescriptor) (k : Nat)
    (h : ∀ n, n < d.outLen.toNat → k / 4 ≠ (unitStride d.outBase n).toNat) : (writeOutputs m d).byteAt k = m.byteAt k :=
  writeLoop_byteAt _ _ (fun n _ => firDot m d n) _ _ h

/-- A word of a slot, with the offset as the transport gives it. -/
theorem slotWord_eq (r : Region) (u : Nat) (o : BitVec 16) : r.base u + o.setWidth 32 = unitStride (r.base u) o.toNat := by
  rw [unitStride]
  congr 1
  apply BitVec.eq_of_toNat_eq
  simp

/-- Every word of a receive or transmit slot is mapped (`20_memory.md` R71). -/
theorem slotWord_mapped (r : Region) (hu : r.units = 2) (hc : r.capacity = 65536) (slot : Slot) (o : BitVec 16) :
    mapped (r.base slot.val + o.setWidth 32) = true := by
  rw [slotWord_eq]
  exact r.mapped_base _ _ (by rw [hu]; exact slot.isLt) (by rw [hc]; exact o.isLt)

/-- Sample `i` of channel `c` of an interleaved block is the word at offset `i * N + c` (`10_state.md` R47). -/
theorem channelStride_eq (a : Word) (c : Nat) (n : Word) (i : Nat) :
    channelStride (unitStride a c) n i = unitStride a (i * n.toNat + c) := by
  simp only [channelStride, unitStride, BitVec.ofNat_add, BitVec.ofNat_mul, BitVec.ofNat_toNat, BitVec.setWidth_eq]
  rw [BitVec.add_assoc, BitVec.add_comm (BitVec.ofNat 32 c)]

/-- The offsets of an interleaved block of legal size are inside a slot. -/
theorem interleaved_lt (i c n b : Nat) (hi : i < b) (hc : c < n) (hb : b ≤ 4096) (hn : n ≤ 16) : i * n + c < 65536 := by
  have h : (i + 1) * n ≤ 4096 * 16 := Nat.mul_le_mul (by omega) hn
  rw [Nat.add_mul] at h
  omega

/-- `CHCFG` after `CONFIGURE` has written one entry. -/
theorem State.setChan_chan (s : State) (c : Nat) (v : BitVec 16) (d : Nat) :
    (s.setChan c v).chan d = if c = d ∧ c < Config.maxCh then ⟨v, true⟩ else s.chan d := by
  simp only [State.setChan, State.chan, Vector.getD, Vector.toArray_setIfInBounds, Array.getD_eq_getD_getElem?,
    Array.getElem?_setIfInBounds, Vector.size_toArray]
  by_cases h1 : c = d
  · subst h1
    by_cases h2 : c < Config.maxCh <;> simp [h2]
  · simp [h1]

/-- A channel outside the bank has no configuration. -/
theorem State.chan_of_ge (s : State) (c : Nat) (h : Config.maxCh ≤ c) : s.chan c = ⟨0, false⟩ := by
  simp [State.chan, Vector.getD, Array.getD, Nat.not_lt.mpr h]

end Sys2Proof.Machine
end

