-- ==== Sys2Proof/Laws/PerInstr.lean ====
section
/-! SUPPORT. Statements made command by command: every encoding lies in its row of `spec/opcode_table.json`. -/

namespace Sys2Proof

/-- The `match` column of a command's row. -/
def rowPattern : Instr → Word
  | .nop => 0x00000000
  | .tofloat => 0x10000000
  | .tofixed => 0x11000000
  | .stage _ => 0x20000000
  | .capture _ => 0x21000000
  | .configure _ => 0x30000000
  | .dispatch => 0x31000000
  | .isdone => 0x32000000
  | .waitdone => 0x33000000
  | .start => 0x40000000
  | .stop => 0x41000000

/-- The encoding has the operation code of the row's `match` word, the channel in `CH` and a zero field. -/
def Laws.EncodesItsRow.Statement (i : Instr) : Prop :=
  i.wellFormed = true →
    fieldOpc (encode i) = fieldOpc (rowPattern i) ∧ (fieldCh (encode i)).toNat = i.channel ∧ fieldZero (encode i) = 0

/-- From the two columns of a command's row. -/
theorem encodesItsRow (i : Instr) (hp : fieldOpc (rowPattern i) = BitVec.ofNat 8 i.opc)
    (hc : i.wellFormed = true → i.channel < 256) : Laws.EncodesItsRow.Statement i := by
  intro h
  rw [hp, fieldCh_encode, BitVec.toNat_ofNat, Nat.mod_eq_of_lt (hc h)]
  exact ⟨fieldOpc_encode i, rfl, fieldZero_encode i⟩

theorem Laws.EncodesItsRow.nop : Laws.EncodesItsRow.Statement .nop := encodesItsRow _ (by decide) fun _ => by decide
theorem Laws.EncodesItsRow.tofloat : Laws.EncodesItsRow.Statement .tofloat := encodesItsRow _ (by decide) fun _ => by decide
theorem Laws.EncodesItsRow.tofixed : Laws.EncodesItsRow.Statement .tofixed := encodesItsRow _ (by decide) fun _ => by decide
theorem Laws.EncodesItsRow.stage (c : Nat) : Laws.EncodesItsRow.Statement (.stage c) :=
  encodesItsRow _ (show fieldOpc (rowPattern (.stage 0)) = BitVec.ofNat 8 (Instr.opc (.stage 0)) by decide) of_decide_eq_true
theorem Laws.EncodesItsRow.capture (c : Nat) : Laws.EncodesItsRow.Statement (.capture c) :=
  encodesItsRow _ (show fieldOpc (rowPattern (.capture 0)) = BitVec.ofNat 8 (Instr.opc (.capture 0)) by decide) of_decide_eq_true
theorem Laws.EncodesItsRow.configure (c : Nat) : Laws.EncodesItsRow.Statement (.configure c) :=
  encodesItsRow _ (show fieldOpc (rowPattern (.configure 0)) = BitVec.ofNat 8 (Instr.opc (.configure 0)) by decide) of_decide_eq_true
theorem Laws.EncodesItsRow.dispatch : Laws.EncodesItsRow.Statement .dispatch := encodesItsRow _ (by decide) fun _ => by decide
theorem Laws.EncodesItsRow.isdone : Laws.EncodesItsRow.Statement .isdone := encodesItsRow _ (by decide) fun _ => by decide
theorem Laws.EncodesItsRow.waitdone : Laws.EncodesItsRow.Statement .waitdone := encodesItsRow _ (by decide) fun _ => by decide
theorem Laws.EncodesItsRow.start : Laws.EncodesItsRow.Statement .start := encodesItsRow _ (by decide) fun _ => by decide
theorem Laws.EncodesItsRow.stop : Laws.EncodesItsRow.Statement .stop := encodesItsRow _ (by decide) fun _ => by decide

end Sys2Proof
end

