-- ==== Sys2Proof/Laws/Step.lean ====
section
/-! SUPPORT. What one step can do: the empty schedule, one turn of each agent, and a run of steps. -/

namespace Sys2Proof.Machine

theorem step_nil (s : State) (h : s.turns = []) : step s = .next s := by simp [step, State.advance, h]

/-- One step is the turn of the agent the schedule names. -/
theorem step_cons (s : State) (turn : Turn) (rest : List Turn) (h : s.turns = turn :: rest) :
    step s = State.takeTurn { s with turns := rest } turn := by
  simp [step, State.advance, h]

/-- A run of one step more. -/
theorem core_run_succ (n : Nat) (s t : State) (h : step s = .next t) :
    Sys2Proof.core.run (n + 1) s = Sys2Proof.core.run n t :=
  (Host.Core.run.eq_2 Sys2Proof.core s n).trans (by rw [show Sys2Proof.core.step s = .next t from h])

/-- The host's turn, with a bus step to take (`44_host_bus.md` R250). -/
theorem step_host (s : State) (rest : List Turn) (op : HostOp) (ops : List HostOp) (h : s.turns = .host :: rest)
    (ho : s.hostOps = op :: ops) (hw : s.waitHold = false) :
    step s = State.hostOp { s with turns := rest, hostOps := ops } op := by
  rw [step_cons s _ _ h]
  simp [State.takeTurn, State.hostTurn, ho, hw]

/-- The transport's turn, with a step to take (`43_orchestrator.md` R212). -/
theorem step_transport (s : State) (rest : List Turn) (op : TransportOp) (ops : List TransportOp)
    (h : s.turns = .transport :: rest) (ho : s.transportOps = op :: ops) :
    step s = .next (State.transportOp { s with turns := rest, transportOps := ops } op) := by
  rw [step_cons s _ _ h]
  simp [State.takeTurn, State.transportTurn, ho]

/-- The turn of a busy accelerator (`42_fir_engine.md` R190). -/
theorem step_accel (s : State) (rest : List Turn) (h : s.turns = .accel :: rest) (hb : s.accelBusy = true) :
    step s = .next (State.stepX1 { s with turns := rest }) := by
  rw [step_cons s _ _ h]
  simp [State.takeTurn, hb]

/-- The turn of an accelerator without a job passes (R190; `00_scope.md` R6). -/
theorem step_accel_idle (s : State) (rest : List Turn) (h : s.turns = .accel :: rest) (hb : s.accelBusy = false) :
    step s = .next { s with turns := rest } := by
  rw [step_cons s _ _ h]
  simp [State.takeTurn, hb]

/-- The orchestrator's turn, with an enabled step (`43_orchestrator.md` R218). -/
theorem step_orch (s : State) (rest : List Turn) (h : s.turns = .orch :: rest) :
    step s = State.stepOrch { s with turns := rest } := step_cons s _ _ h

/-- A bus write that has a next state (`44_host_bus.md` R252): a data word, a register, a command, or an unmapped address. -/
theorem busWrite_cases (s t : State) (a w : Word) (h : s.busWrite a w = .next t) :
    (mapped a = true ∧ t = { s with mem := s.mem.writeWord a w }) ∨
    (mapped a = false ∧ regAt a = none ∧ t = { s with busFault := true }) ∨
    (∃ r, regAt a = some r ∧ r ≠ .cmd ∧ s.writeReg r w = .next t) ∨
    (regAt a = some .cmd ∧ ∃ e, decode w = .error e ∧ t = s.raiseStatus .errIllegal) ∨
    (regAt a = some .cmd ∧ ∃ i, decode w = .ok i ∧ exec i s = .next t) := by
  unfold State.busWrite at h
  split at h
  · next hm => cases h; exact .inl ⟨hm, rfl⟩
  · next hm =>
    have hm' : mapped a = false := by simpa using hm
    split at h
    · next r hr =>
      by_cases hc : r = .cmd
      · subst hc
        simp only [State.writeReg, runCommand] at h
        split at h
        · next e he => cases h; exact .inr (.inr (.inr (.inl ⟨hr, e, he, rfl⟩)))
        · next i he => exact .inr (.inr (.inr (.inr ⟨hr, i, he, h⟩)))
      · exact .inr (.inr (.inl ⟨r, hr, hc, h⟩))
    · next hr => cases h; exact .inr (.inl ⟨hm', hr, rfl⟩)

/-- Which step of the orchestrator is enabled, by the phase (R218). -/
theorem orchEnabled_phase (s : State) (o : OrchStep) (h : s.orchEnabled = some o) :
    s.phase = (match o with
      | .s1 => .idle | .s2 => .converting | .s3 => .staging | .s4 => .dispatched | .s5 => .emitting | .s4v => .dispatched) := by
  unfold State.orchEnabled at h
  cases hp : s.phase <;> rw [hp] at h <;> simp only at h <;> (try split_ifs at h) <;>
    (try cases hm : s.mode <;> rw [hm] at h) <;> cases h <;> rfl

/-! ## The invariant under updates of what it does not speak of -/

theorem State.Inv.congr {s t : State} (h : s.Inv) (hmem : t.mem = s.mem) (hpa : t.processingActive = s.processingActive)
    (hph : t.phase = s.phase) (hrun : t.run = s.run) (hmode : t.mode = s.mode) (hbusy : t.accelBusy = s.accelBusy)
    (hdone : t.filterDone = s.filterDone) (hnch : t.nch = s.nch) (hbs : t.bsize = s.bsize) (hdl : t.descLeft = s.descLeft)
    (hll : t.lapsLeft = s.lapsLeft) (hch : t.chcfg = s.chcfg) : t.Inv := by
  obtain ⟨a1, a2, a3, a4, a5, a6, a7, a8, a9, a10, a11⟩ := h
  constructor <;> simp only [State.nchLegal, State.bsizeLegal, State.chan, hmem, hpa, hph, hrun, hmode, hbusy, hdone, hnch,
    hbs, hdl, hll, hch] at * <;> assumption

theorem State.Inv.withMem {s : State} (h : s.Inv) (m : Memory) (hwf : m.wf = true) (hmap : m.inMap) :
    State.Inv { s with mem := m } := by
  obtain ⟨a1, a2, a3, a4, a5, a6, a7, a8, a9, a10, a11⟩ := h
  constructor <;> assumption

end Sys2Proof.Machine
end

