-- ==== Sys2Proof/Tests/Slice0.lean ====
section
/-! SUPPORT. Tests, with expected values from the spec's encodings, worked examples and vectors, and, for each obligation with
hypotheses, a witness: concrete states and operands that meet them. -/

namespace Sys2Proof.Tests

open Sys2Proof Sys2Proof.Machine

set_option Elab.async false

/-! ## Well-formedness, decoding, encoding (`30_encoding.md`) -/

/-- A channel that does not fit `CH` has no encoding (R100). -/
theorem test_channel_256_is_not_well_formed :
    Instr.wellFormed (.stage 256) = false ∧ Instr.wellFormed (.capture 256) = false ∧
      Instr.wellFormed (.configure 256) = false ∧ Instr.wellFormed (.stage 255) = true := by decide

/-- One word of each row of R101, written out. -/
theorem test_decode_rows :
    decode 0b00000000_00000000_0000000000000000 = .ok .nop ∧ decode 0b00010000_00000000_0000000000000000 = .ok .tofloat ∧
    decode 0b00010001_00000000_0000000000000000 = .ok .tofixed ∧ decode 0b00100000_00000111_0000000000000000 = .ok (.stage 7) ∧
    decode 0b00100001_00001000_0000000000000000 = .ok (.capture 8) ∧
    decode 0b00110000_11111111_0000000000000000 = .ok (.configure 255) ∧
    decode 0b00110001_00000000_0000000000000000 = .ok .dispatch ∧ decode 0b00110010_00000000_0000000000000000 = .ok .isdone ∧
    decode 0b00110011_00000000_0000000000000000 = .ok .waitdone ∧ decode 0b01000000_00000000_0000000000000000 = .ok .start ∧
    decode 0b01000001_00000000_0000000000000000 = .ok .stop := by decide

/-- The illegal words of `60_exceptions.md` R278 and one of each kind with a channel (R102). -/
theorem test_decode_illegal :
    decode 0x12000000 = .error (.unknownOpc 0x12) ∧ decode 0x31010000 = .error (.channelNotZero 0x01) ∧
    decode 0x00000001 = .error (.zeroFieldNotZero 0x0001) ∧ decode 0x20058000 = .error (.zeroFieldNotZero 0x8000) := by decide

theorem test_encode_words :
    encode .waitdone = 0x33000000 ∧ encode (.stage 15) = 0x200F0000 ∧ encode (.capture 0) = 0x21000000 ∧
      encode (.configure 16) = 0x30100000 := by decide

theorem test_decode_table_word : decodeTableWord 32 0x21030000 = some (.capture 3) ∧ decodeTableWord 32 0x42000000 = none := by
  decide

/-! ## Conversions and arithmetic (`40_conversion.md`, `95_test_vectors.md`) -/

theorem test_float_of :
    floatOf 32 0x7FFFFFBF = 0x3F7FFFFF ∧ floatOf 32 0x7FFFFFC0 = 0x3F800000 ∧ floatOf 24 0xAB800000 = 0xBF800000 ∧
      floatOf 16 0x0000FFFF = 0xB8000000 := by decide +kernel

theorem test_fix_of :
    fixOf 32 0x3F800000 = (0x7FFFFFFF, true) ∧ fixOf 32 0xB0400000 = (0xFFFFFFFE, false) ∧
      fixOf 32 0x7FC00000 = (0, true) ∧ fixOf 16 0xBF800000 = (0xFFFF8000, false) := by decide +kernel

/-- `00_scope.md` R14: a tie, an overflow, a subnormal, the zeros, an exact sum. -/
theorem test_binary32 :
    f32Add 0x4B800000 0x3F800000 = 0x4B800000 ∧ f32Mul 0x7F000000 0x40000000 = 0x7F800000 ∧
      f32Mul 0x00800000 0x3F000000 = 0x00400000 ∧ f32Add 0x80000000 0x80000000 = 0x80000000 ∧
      f32Add 0x00000000 0x80000000 = 0 ∧ f32Add 0x3F800000 0x3F800000 = 0x40000000 := by decide +kernel

/-! ## Small states -/

/-- A memory with the given words. -/
def memOf (l : List (Word × Word)) : Memory := l.foldl (fun m p => m.writeWord p.1 p.2) []

/-- The state an outcome leaves; the reset state if there is none. -/
def after (o : Outcome) : State := (nextState o).getD State.reset

/-- The example of `42_fir_engine.md` R167 and R190 before `CONFIGURE 0`: `taps = 3`, `bs = 4`, two laps. -/
def ready (mode : Mode) : State :=
  { State.reset with
    mode := mode, nch := 1, bsize := 4, iter := 2, arg0 := 0x07000000, arg1 := 3, arg2 := 4, arg3 := 2
    mem := memOf
      [(0x07000000, 0x3F000000), (0x07000001, 0x3E800000), (0x07000002, 0x40000000), (0x04000000, 0), (0x04000001, 0),
        (0x04000002, 0x3F800000), (0x04000003, 0), (0x04000004, 0), (0x04000005, 0), (0x03000000, 0x3F800000),
        (0x03000001, 0), (0x03000002, 0), (0x03000003, 0x40000000)] }

/-- The same after `CONFIGURE 0`. -/
def configured (mode : Mode) : State := after (exec (.configure 0) (ready mode))

/-- The same with the job dispatched. -/
def armed : State := after (exec .dispatch (configured .offlineValidation))

/-- The same with its two laps done. -/
def finished : State := armed.stepX1.stepX1

/-- A started live pipeline with a delivered block. -/
def live : State := State.deliver (after (exec .start (configured .liveStreaming))) 0 0

/-- A conversion of two samples. -/
def converting (dst src : Word) (mem : Memory) : State :=
  { State.reset with arg0 := dst, arg1 := src, arg2 := 1, arg3 := 2, mem := mem }

/-! ## One step of each command -/

theorem test_nop_writes_status : exec .nop { State.reset with status := .errBus, res := 7 } = .next State.reset := by
  rfl

/-- The example of R132. -/
theorem test_tofloat_example :
    (after (exec .tofloat (converting 0x03000000 0x01000000
      (memOf [(0x01000000, 0x40000000), (0x01000001, 0x80000000)])))).mem.readWord 0x03000001 = 0xBF800000 := by decide +kernel

/-- U6 (R137): the second sample reads what the first wrote. -/
theorem test_tofloat_overlap :
    (after (exec .tofloat (converting 0x01000001 0x01000000 (memOf [(0x01000000, 0x40000000)])))).mem.readWord 0x01000002 =
      0x3EFC0000 := by decide +kernel

/-- The example of R134: stride 2, one sample clamped and counted. -/
theorem test_tofixed_example :
    let t := after (exec .tofixed { converting 0x02000000 0x06000000
      (memOf [(0x06000000, 0x3F000000), (0x06000001, 0x3F800000)]) with arg2 := 2 })
    t.mem.readWord 0x02000000 = 0x40000000 ∧ t.mem.readWord 0x02000002 = 0x7FFFFFFF ∧ t.satCount = 1 := by decide +kernel

theorem test_tofixed_unmapped :
    (after (exec .tofixed (converting 0x03000FFF 0x06000000 []))).status = .errBus := by decide +kernel

/-- R151: two words of history, then the block. -/
theorem test_stage_splices :
    let t := after (exec (.stage 0) (configured .liveStreaming))
    t.mem.readWord 0x04000001 = 0 ∧ t.mem.readWord 0x04000002 = 0x3F800000 ∧ t.mem.readWord 0x04000005 = 0x40000000 := by
  decide +kernel

theorem test_stage_unconfigured :
    (after (exec (.stage 1) (configured .liveStreaming))).cfgError = true := by decide +kernel

/-- The first example of R153: the last two words of the window. -/
theorem test_capture_tail :
    let t := after (exec (.capture 0)
      { configured .liveStreaming with mem := ((configured .liveStreaming).mem.writeWord 0x04000004 5).writeWord 0x04000005 6 })
    t.mem.readWord 0x05000000 = 5 ∧ t.mem.readWord 0x05000001 = 6 := by decide +kernel

/-- The example of R167. -/
theorem test_configure_example :
    ((configured .offlineValidation).mem.descriptor 0x08000000).words =
      [0x08000000, 0x07000000, 3, 0x07000002, 0x04000000, 6, 0x06000000, 4, 0xC0020003] := by decide +kernel

theorem test_configure_live :
    ((configured .liveStreaming).mem.descriptor 0x08000000).ctrl = 0x80020003 ∧
      (configured .liveStreaming).mem.readWord 0x05000001 = 0 ∧
      ((configured .liveStreaming).chan 0).word = 0x80000003 := by decide +kernel

/-- The example of R174. -/
theorem test_dispatch_example :
    armed.flagsWord = 0x08 ∧ armed.cp = 0x08000000 ∧ armed.descLeft = 1 ∧ armed.lapsLeft = 2 ∧ armed.jobCI = true ∧
      armed.jobAI = true := by decide +kernel

theorem test_dispatch_overrun :
    (after (exec .dispatch armed)).status = .errOverrun ∧ (after (exec .dispatch armed)).overrunCount = 1 := by decide +kernel

/-- The example of R190, and the completion after the second lap. -/
theorem test_x1_example :
    (armed.stepX1.mem.readWord 0x06000000 = 0x3F000000 ∧ armed.stepX1.mem.readWord 0x06000001 = 0x3E800000 ∧
      armed.stepX1.mem.readWord 0x06000002 = 0x40000000 ∧ armed.stepX1.mem.readWord 0x06000003 = 0) ∧
      armed.stepX1.flagsWord = 0x08 ∧ finished.flagsWord = 0x04 := by decide +kernel

/-- The example of R180. -/
theorem test_isdone_example :
    (after (exec .isdone finished)).res = 1 ∧ (after (exec .isdone finished)).flagsWord = 0 ∧
      (after (exec .isdone (after (exec .isdone finished)))).res = 0 := by decide +kernel

/-- The example of R181. -/
theorem test_waitdone_example :
    (after (exec .waitdone finished)).res = 1 ∧
      (after (exec .waitdone (after (exec .waitdone finished)))).status.code = 6 := by decide +kernel

theorem test_waitdone_holds : (after (exec .waitdone armed)).waitHold = true := by decide +kernel

/-- R210: `NCH = 0` after reset is refused (`70_reset_and_hazards.md` R311); a checked configuration starts. -/
theorem test_start :
    (after (exec .start State.reset)).status = .errConfig ∧ (after (exec .start (configured .offlineValidation))).phase.code = 3 ∧
      live.ctrlWord = 3 ∧ live.flagsWord = 1 := by decide +kernel

/-- R211: the pending block is discarded. -/
theorem test_stop_discards :
    (after (exec .stop live)).ctrlWord = 2 ∧ (after (exec .stop live)).flagsWord = 0 ∧
      (after (exec .stop live.stepS1)).status = .errBusy := by decide +kernel

/-- `withFetchWord` puts the command where the next step takes it. -/
theorem test_step_runs_word :
    (after (step (State.withFetchWord (configured .offlineValidation) 32 0x31000000))).accelBusy = true ∧
      (after (step (State.withFetchWord State.reset 32 0x00000001))).status = .errIllegal := by decide +kernel

/-! ## Witnesses: states and operands that meet an obligation's hypotheses, clause by clause -/

/-- The host's turn, with one bus step to take. -/
def hostNext (s : State) (op : HostOp) : State := { s with turns := [.host], hostOps := [op] }

theorem witness_DecodeReadsBackEncode : Instr.wellFormed (.capture 255) = true := by decide

theorem witness_LegalWordsAreEncodings : decode 0x30FF0000 = .ok (.configure 255) := by decide

theorem witness_StepRunsDecodedCommand :
    let s := hostNext State.reset (.write 0xFF00000D 0x41000000)
    s.turns = .host :: [] ∧ s.hostOps = .write 0xFF00000D 0x41000000 :: [] ∧ s.waitHold = false ∧
      decode 0x41000000 = .ok .stop := by decide

theorem witness_IllegalWords :
    let s := hostNext { State.reset with run := true } (.write 0xFF00000D 0x00000001)
    s.turns = .host :: [] ∧ s.hostOps = .write 0xFF00000D 0x00000001 :: [] ∧ s.waitHold = false ∧
      decode 0x00000001 = .error (.zeroFieldNotZero 1) := by decide

theorem witness_FailedCommandsChangeNothingElse :
    nextState (exec .tofloat { State.reset with run := true }) = some { State.reset with run := true, status := .errBusy } ∧
      (nextState (exec .waitdone State.reset)).map (fun t => (t.status, t.waitHold)) = some (.errNoJob, false) := by
  decide +kernel

/-- The cases of R132: an unmapped last sample, two separate samples, a sample that reads what the one before it wrote. -/
theorem witness_TofloatCommand :
    mapped (0x01000000 + BitVec.ofNat 32 1 * 1) = true ∧ mapped (0x03000FFF + BitVec.ofNat 32 1) = false ∧
    (∀ i, i < 2 → mapped (0x01000000 + BitVec.ofNat 32 i * 1) = true ∧ mapped (0x03000FFE + BitVec.ofNat 32 i) = true) ∧
    (∀ j, j < 1 → (0x03000FFE : Word) + BitVec.ofNat 32 j ≠ 0x01000000 + BitVec.ofNat 32 1 * 1) ∧
    (0x01000001 : Word) + BitVec.ofNat 32 0 = 0x01000000 + BitVec.ofNat 32 1 * 1 := by decide

theorem witness_TofixedCommand :
    mapped (0x0200FFFF + BitVec.ofNat 32 1 * 0x10000) = true ∧ mapped (0x0201FFFF + BitVec.ofNat 32 1 * 1) = false ∧
    (∀ i, i < 2 → mapped (0x0200FFFF + BitVec.ofNat 32 i * 0x10000) = true ∧ mapped (0x06000FFE + BitVec.ofNat 32 i) = true) := by
  decide

theorem witness_TofixedSamplesAndCount :
    (∀ i, i < 2 → mapped (0x02000000 + BitVec.ofNat 32 i * 1) = true ∧ mapped (0x06000FFE + BitVec.ofNat 32 i) = true) ∧
    (∀ i j, i < 2 → j < 2 → (0x02000000 : Word) + BitVec.ofNat 32 i * 1 ≠ 0x06000FFE + BitVec.ofNat 32 j) ∧
    (∀ j, 0 < j → j < 2 → (0x02000000 : Word) + BitVec.ofNat 32 j * 1 ≠ 0x02000000 + BitVec.ofNat 32 0 * 1) := by
  refine ⟨by decide, ?_, ?_⟩
  · intro i j hi hj
    interval_cases i <;> interval_cases j <;> decide
  · intro j h0 hj
    interval_cases j
    decide

theorem witness_FloatOfIsTheNearestFloat :
    sextSample 32 0 = 0 ∧ sextSample 2 0xFFFFFFFE = -2 ∧ sextSample 25 0x00FFFFFF = 2 ^ 24 - 1 ∧ f32IsFinite 0x3F7FFFFF = true := by
  decide

theorem witness_FixOfRoundsAndClamps :
    f32IsNaN 0x7F800001 = true ∧ f32IsInf 0xFF800000 = true ∧ f32IsFinite 0x7F7FFFFF = true ∧ f32IsFinite 0x80000001 = true := by
  decide

theorem witness_RoundTripIsWithinHalfAnUlp :
    |sextSample 26 0x01000000| ≤ 2 ^ 24 ∧ (|(-3 : Int)| < 2 ^ 24 ∧ sextSample 32 0x80000000 = -1 * 2 ^ 31) ∧
      2 ^ (23 + 7) ≤ |sextSample 32 0x7FFFFFC0| ∧ |sextSample 32 0x7FFFFFC0| < 2 ^ (24 + 7) := by decide +kernel

/-- The clauses: a NaN, infinity by zero, opposite infinities, an infinity with a finite word and with itself, finite words. -/
theorem witness_SumAndProduct :
    f32IsNaN 0xFFFFFFFF = true ∧ (f32IsInf 0x7F800000 = true ∧ f32IsZero 0x80000000 = true) ∧
    (f32IsInf 0xFF800000 = true ∧ f32Sign 0x7F800000 ≠ f32Sign 0xFF800000) ∧
    (f32IsNaN 0x7F7FFFFF = false ∧ f32IsZero 0x7F7FFFFF = false ∧ f32IsFinite 0x7F7FFFFF = true) ∧
    f32Units 0x3F800000 + f32Units 0xBF800000 = 0 ∧ f32Units 0x80000000 + f32Units 0x80000000 = 0 ∧
    f32Units 1 + f32Units 1 ≠ 0 := by decide +kernel

theorem witness_RoundingGivesTheNearestValue :
    (2 ^ 25 - 1) * 2 ^ (252 + 0) ≤ (2 ^ 25 - 1) * 2 ^ 252 ∧ (2 ^ 25 - 1) * 2 ^ 252 - 1 < (2 ^ 25 - 1) * 2 ^ (252 + 0) ∧
      f32IsFinite 0x7F7FFFFF = true ∧ f32Mag 0x7F7FFFFE ≠ f32Mag (f32Round false ((2 ^ 25 - 1) * 2 ^ 252 - 1) 0) := by
  decide +kernel

/-- R151, clause by clause: busy, the four configuration errors at their bounds, a complete call. -/
theorem witness_StageCommand :
    armed.accelBusy = true ∧ ((configured .liveStreaming).chan 1).configured = false ∧ State.reset.bsize.toNat = 0 ∧
    4096 < ({ State.reset with bsize := 4097 } : State).bsize.toNat ∧
    (let s := configured .liveStreaming
     s.run = false ∧ s.accelBusy = false ∧ (s.chan 0).configured = true ∧ 1 ≤ s.bsize.toNat ∧ s.bsize.toNat ≤ 4096 ∧
       1 ≤ (s.chan 0).taps.toNat ∧ (s.chan 0).taps.toNat ≤ 4096) := by decide +kernel

theorem witness_CaptureCommand :
    let s := { armed with bsize := 4096 }
    s.run = false ∧ s.accelBusy = true ∧ (s.chan 0).configured = true ∧ s.bsize.toNat ≤ 4096 ∧ (s.chan 0).taps.toNat = 3 := by
  decide +kernel

/-- A silent stream of one-word blocks with one word of history. -/
theorem witness_WindowHoldsTheStream :
    let m := memOf [(0x03000000, 0), (0x05000000, 0)]
    m.readWord (unitStride (Region.hist.base 0) 0) = 0 ∧ m.readWord (unitStride (Region.csb.base 0) 0) = 0 ∧
      m.readWord (unitStride (Region.hist.base 0) 0) =
        (captureWords 0 1 1 (stageWords 0 1 1 m)).readWord (unitStride (Region.hist.base 0) 0) := by decide +kernel

theorem witness_StagerChannelsCommute :
    Memory.wf [] = true ∧ 0 < 16 ∧ 15 < 16 ∧ 0 ≠ 15 ∧ 4095 ≤ 4095 ∧ 0 ≤ 4095 ∧ 4096 ≤ 4096 := by decide

/-- R166 and R167, clause by clause: busy, each check at its bound, an unmapped coefficient, a complete call. -/
theorem witness_ConfigureCommand :
    armed.accelBusy = true ∧ State.reset.nch.toNat = 0 ∧ 16 < (17 : Word).toNat ∧ (ready .liveStreaming).nch.toNat ≤ 1 ∧
    State.reset.arg1.toNat = 0 ∧ 4096 < (4097 : Word).toNat ∧
    (let s := ready .liveStreaming
     s.run = false ∧ s.accelBusy = false ∧ 0 < s.nch.toNat ∧ s.nch.toNat ≤ 16 ∧ 1 ≤ s.arg1.toNat ∧ s.arg1.toNat ≤ 4096 ∧
       1 ≤ s.arg2.toNat ∧ s.arg2.toNat ≤ 4096 ∧ (∀ k, k < s.arg1.toNat → mapped (s.arg0 + BitVec.ofNat 32 k) = true)) ∧
    (2 < (ready .liveStreaming).arg1.toNat ∧ mapped ((0x07000FFE : Word) + BitVec.ofNat 32 2) = false) := by decide +kernel

theorem witness_ClogIsTheLeastExponent : 1 ≤ 4096 ∧ 4096 ≤ 2 ^ 12 ∧ clog2 1 = 0 ∧ clog2 3 = 2 := by decide

/-- Two coefficients `1.0, 0`, a window `0.5, -0.0`. -/
theorem witness_IdentityFilterReturnsNewestSample :
    let m := memOf [(0x07000000, 0x3F800000), (0x07000001, 0), (0x04000000, 0x3F000000), (0x04000001, 0x80000000)]
    let d : JobDescriptor := ⟨0, 0x07000000, 2, 0x07000001, 0x04000000, 2, 0x06000000, 1, 2⟩
    1 ≤ d.taps ∧
    (∀ j, j < d.taps →
      m.readWord (d.coefIndex - BitVec.ofNat 32 j) = (if j + 1 = d.taps then 0x3F800000#32 else 0#32)) ∧
    (∀ j, j < d.taps → f32IsFinite (m.readWord (d.inBase + BitVec.ofNat 32 ((0 + j) % d.inLen.toNat))) = true) := by
  decide +kernel

/-- The clauses of R174: busy, in flight, unobserved, an invalid chain, a valid one. -/
theorem witness_DispatchCommand :
    (armed.run = false ∧ armed.accelBusy = true) ∧ (finished.run = false ∧ finished.filterDone = true) ∧
    (State.reset.accelBusy = false ∧ State.reset.filterDone = false ∧ State.reset.chainValid State.reset.firHead = false) ∧
    (let s := configured .offlineValidation
     s.run = false ∧ s.accelBusy = false ∧ s.filterDone = false ∧ s.chainValid s.firHead = true) := by decide +kernel

theorem witness_IsdoneCommand :
    live.run = true ∧ (finished.run = false ∧ finished.filterDone = true) ∧ (armed.run = false ∧ armed.filterDone = false) := by
  decide +kernel

theorem witness_WaitdoneCommand :
    (live.waitHold = false ∧ live.run = true) ∧ (finished.waitHold = false ∧ finished.filterDone = true) ∧
    (State.reset.run = false ∧ State.reset.filterDone = false ∧ State.reset.accelBusy = false) ∧
    (armed.waitHold = false ∧ armed.run = false ∧ armed.filterDone = false ∧ armed.accelBusy = true ∧ armed.jobCI = true) := by
  decide +kernel

theorem witness_WaitdoneHoldIsLifted :
    let s := { armed with waitHold := true, turns := [.host] }
    let u := { finished with waitHold := true, turns := [.host] }
    let v := { State.reset with waitHold := true, turns := [.host] }
    (s.turns = .host :: [] ∧ s.waitHold = true ∧ s.filterDone = false ∧ s.accelBusy = true) ∧
      (u.waitHold = true ∧ u.filterDone = true) ∧ (v.waitHold = true ∧ v.filterDone = false ∧ v.accelBusy = false) := by
  decide +kernel

/-- A valid descriptor in the first lap, in the last lap, with two descriptors left, an invalid one, and an idle
accelerator. -/
theorem witness_AccelStep :
    let s := { armed with turns := [.accel] }
    (s.turns = .accel :: [] ∧ s.accelBusy = true ∧ descValid s.mem s.cp = true ∧ s.descLeft = 1 ∧ s.lapsLeft.toNat = 2) ∧
      (armed.stepX1.accelBusy = true ∧ descValid armed.stepX1.mem armed.stepX1.cp = true ∧ armed.stepX1.lapsLeft.toNat = 1) ∧
      2 ≤ ({ armed with descLeft := 2 } : State).descLeft ∧ descValid armed.mem 0 = false ∧
      (let s := { finished with turns := [.accel] }; s.turns = .accel :: [] ∧ s.accelBusy = false) := by decide +kernel

/-- The clauses of R210: busy, refused, live, offline. -/
theorem witness_StartCommand :
    live.run = true ∧ armed.accelBusy = true ∧ finished.filterDone = true ∧ State.reset.checkStart = false ∧
    (let s := configured .liveStreaming
     s.run = false ∧ s.phase = .idle ∧ s.accelBusy = false ∧ s.filterDone = false ∧ s.cfgError = false ∧
       s.checkStart = true ∧ s.mode = .liveStreaming) ∧
    (let s := configured .offlineValidation
     s.cfgError = false ∧ s.checkStart = true ∧ s.mode = .offlineValidation) := by decide +kernel

theorem witness_CheckStartIsTheListedConditions :
    (configured .liveStreaming).mode = .liveStreaming ∧ State.reset.mode = .offlineValidation := by decide +kernel

theorem witness_StopCommand :
    State.reset.run = false ∧ live.stepS1.phase ≠ .idle ∧ (live.run = true ∧ live.phase = .idle ∧ live.accelBusy = false) := by
  decide +kernel

theorem witness_DeliverInterrupt :
    State.reset.run = false ∧ (live.run = true ∧ live.mode = .liveStreaming ∧ (1 ≠ 0 ∨ 1 < 0) ∧ (0 ≠ 0 ∨ 1 < 2)) ∧ 1 ≤ 1 := by
  decide +kernel

/-- A write, a read, a delivery of the contract's form, and the three that are not: masked, of the other slot, of another
group. -/
theorem witness_TransportTurn :
    let s (op : TransportOp) := { live with turns := [.transport], transportOps := [op] }
    ((s (.write 1 0xFFFF 7)).turns = .transport :: [] ∧ (s (.write 1 0xFFFF 7)).transportOps = .write 1 0xFFFF 7 :: []) ∧
      (s (.read 0 0)).transportOps = .read 0 0 :: [] ∧
      ((s (.deliver 0 0)).transportOps = .deliver 0 0 :: [] ∧ (s (.deliver 0 0)).transportEnable = true ∧
        0 = (s (.deliver 0 0)).fillSlot.val) ∧
      State.transportEnable { State.reset with turns := [.transport], transportOps := [.deliver 0 0] } = false ∧
      1 ≠ (s (.deliver 1 0)).fillSlot.val ∧ (s (.deliver 0 1)).transportOps = .deliver 0 1 :: [] := by decide +kernel

theorem witness_OrchestratorEnabledSteps :
    ({ live with turns := [.orch] } : State).turns = .orch :: [] ∧ State.reset.orchEnabled = none := by decide +kernel

/-- The states in which S1, S4 and S4V are enabled. -/
theorem witness_StepsS1S4AndS4V :
    (live.run = true ∧ live.mode = .liveStreaming ∧ live.phase = .idle ∧ live.blockReady = true) ∧
    (let s := { live with phase := .dispatched, filterDone := true }
     s.phase = .dispatched ∧ s.mode = .liveStreaming ∧ s.filterDone = true) ∧
    (let s := { finished with phase := .dispatched }
     s.phase = .dispatched ∧ s.mode = .offlineValidation ∧ s.filterDone = true) := by decide +kernel

theorem witness_StepS2ConvertsTheBlock :
    let s := { live.stepS1 with turns := [.orch], nch := 16, bsize := 4096 }
    s.turns = .orch :: [] ∧ s.phase = .converting ∧ 1 ≤ s.nch.toNat ∧ s.nch.toNat ≤ 16 ∧ 1 ≤ s.bsize.toNat ∧
      s.bsize.toNat ≤ 4096 := by decide +kernel

theorem witness_StepS3StagesDispatchesCaptures :
    let s := { live.stepS1 with turns := [.orch], phase := .staging }
    s.turns = .orch :: [] ∧ s.phase = .staging ∧ 1 ≤ s.nch.toNat ∧ s.nch.toNat ≤ 16 ∧ 1 ≤ s.bsize.toNat ∧
      s.bsize.toNat ≤ 4096 ∧ (∀ c, c < s.nch.toNat → 1 ≤ (s.chan c).taps.toNat ∧ (s.chan c).taps.toNat ≤ 4096) ∧
      s.accelBusy = false ∧ s.filterDone = false ∧ s.stageAll.chainValid s.firHead = true := by decide +kernel

/-- A chain whose head is null, and a job that someone left in flight. -/
theorem witness_StepS3FailureBranches :
    let s := { live.stepS1 with turns := [.orch], phase := .staging, firHead := 0 }
    (s.turns = .orch :: [] ∧ s.phase = .staging ∧
      (∀ c, c < s.nch.toNat → 1 ≤ (s.chan c).taps.toNat ∧ (s.chan c).taps.toNat ≤ 4096) ∧
      s.accelBusy = false ∧ s.filterDone = false ∧ s.stageAll.chainValid s.firHead = false) ∧
      ({ s with accelBusy := true } : State).accelBusy = true := by decide +kernel

theorem witness_StepS5EmitsTheBlock :
    let s := { live.stepS1 with turns := [.orch], phase := .emitting }
    s.turns = .orch :: [] ∧ s.phase = .emitting ∧ 1 ≤ s.nch.toNat ∧ s.nch.toNat ≤ 16 ∧ 1 ≤ s.bsize.toNat ∧
      s.bsize.toNat ≤ 4096 := by decide +kernel

/-- The three kinds of address of R251, at the ends of their ranges. -/
theorem witness_BusReadHasNoSideEffect :
    (hostNext State.reset (.read 0x0800000F)).hostOps = .read 0x0800000F :: [] ∧
    mapped 0x080F0008 = true ∧ (mapped 0xFF00002F = false ∧ regAt 0xFF00002F = some (.chcfg 15)) ∧
    (mapped 0x080F0009 = false ∧ regAt 0x080F0009 = none) ∧ (mapped 0xFF000030 = false ∧ regAt 0xFF000030 = none) := by decide

theorem witness_RegisterMap :
    regAt (0xFF000020 + BitVec.ofNat 32 15) = some (.chcfg 15) ∧ regAt (0xFF000000 + BitVec.ofNat 32 0x0E) = none ∧
      regAt (0xFF000000 + BitVec.ofNat 32 0xFFFF) = none ∧ (0xFF010000 : Word) >>> 16 ≠ 0xFF00 := by decide

/-- The clauses of R252: the last mapped word, a closed and an open gate, the read-only registers, an unmapped address. -/
theorem witness_BusWriteCases :
    (let s := hostNext State.reset (.write 0x01000000 5)
     s.turns = .host :: [] ∧ s.hostOps = .write 0x01000000 5 :: [] ∧ s.waitHold = false) ∧
    mapped 0x04001FFE = true ∧ live.run = true ∧ armed.accelBusy = true ∧
    (State.reset.run = false ∧ State.reset.accelBusy = false) ∧ (7 ≤ 12 ∧ 12 ≤ 12) ∧ 15 < 16 ∧
    (mapped 0x04001FFF = false ∧ regAt 0x04001FFF = none) := by decide +kernel

theorem witness_MappedIsTheAddressMap :
    255 < 256 ∧ 65535 < 65536 ∧ mapped (BitVec.ofNat 32 (2 * 2 ^ 24 + 1 * 2 ^ 16 + 65535)) = true ∧
      mapped (BitVec.ofNat 32 (4 * 2 ^ 24 + 15 * 2 ^ 16 + 8191)) = false := by decide

theorem witness_ResetValues : ({ live with turns := [.reset] } : State).turns = .reset :: [] := by decide +kernel

/-- An aborting X1 step sets `cfgError`; a delivery moves `PHASE` nowhere and counts. -/
theorem witness_StickyBitsStaySet :
    let s := { armed with turns := [.accel], cp := 0, busFault := true, protoFault := true, cfgError := true }
    (nextState (step s)).isSome = true ∧ s.turns.head? ≠ some .reset ∧ s.cfgError = true ∧ s.busFault = true ∧
      s.protoFault = true := by decide +kernel

theorem witness_CountersAreMonotonic :
    let s := { live with turns := [.transport], transportOps := [.deliver 1 0], blockCount := 0xFFFFFFFF }
    (nextState (step s)).isSome = true ∧ s.turns.head? ≠ some .reset := by decide +kernel

theorem witness_OnlyBusWritesChangeArguments :
    (nextState (exec (.configure 0) (ready .liveStreaming))).isSome = true ∧
    (nextState (step { live with turns := [.orch] })).isSome = true ∧
    (nextState (step { armed with turns := [.accel] })).isSome = true ∧
    (nextState (step { live with turns := [.transport], transportOps := [.deliver 0 0] })).isSome = true := by decide +kernel

theorem witness_PhaseMovesAlongTheArrows :
    let s := { live with turns := [.orch] }
    (nextState (step s)).map (fun t => t.phase.code) = some 1 ∧ s.turns.head? ≠ some .reset ∧ s.phase.code = 0 := by
  decide +kernel

theorem witness_OnlyStartSetsRun :
    let s := hostNext (configured .liveStreaming) (.write 0xFF00000D 0x40000000)
    s.run = false ∧ (nextState (step s)).map (fun t => t.run) = some true := by decide +kernel

/-- The invariant of a concrete state, from decidable checks. -/
theorem inv_of_checks (s : State) (h1 : s.mem.wf = true)
    (h2 : ∀ c ∈ s.mem, c.1 / 4 < 2 ^ 32 ∧ mapped (BitVec.ofNat 32 (c.1 / 4)) = true)
    (h3 : (s.processingActive = true ↔ s.phase ≠ .idle) ∧ (s.run = false → s.phase = .idle) ∧
      (s.run = true → s.accelBusy = true → s.phase = .dispatched) ∧
      (s.run = true → s.filterDone = true → s.phase = .dispatched) ∧ ¬ (s.accelBusy = true ∧ s.filterDone = true))
    (h4 : s.accelBusy = true → s.nchLegal = true ∧ 1 ≤ s.descLeft ∧ s.descLeft ≤ s.nch.toNat ∧ 1 ≤ s.lapsLeft.toNat)
    (h5 : ∀ c, c < 16 → (s.chan c).configured = true → 1 ≤ (s.chan c).taps.toNat ∧ (s.chan c).taps.toNat ≤ Config.maxTaps)
    (h6 : s.run = true → s.mode = .liveStreaming →
      s.nchLegal = true ∧ s.bsizeLegal = true ∧ ∀ c, c < s.nch.toNat → (s.chan c).configured = true)
    (h7 : s.run = true → s.mode = .offlineValidation → s.phase = .dispatched) : s.Inv := by
  refine ⟨h1, h2, h3.1, h3.2.1, h3.2.2.1, h3.2.2.2.1, h3.2.2.2.2, h4, fun c => ?_, h6, h7⟩
  by_cases hc : c < 16
  · exact h5 c hc
  · rw [State.chan_of_ge s c (Nat.le_of_not_lt hc)]
    simp

theorem armed_inv : armed.Inv := by apply inv_of_checks <;> decide +kernel

/-- A live cycle that is converting the block it consumed, while the transport fills the other slot. -/
def inCycle : State :=
  { live.stepS1 with fillSlot := 1, turns := [.transport], transportOps := [.write 1 3 0x7FFFFFFF] }

theorem inCycle_inv : inCycle.Inv := by apply inv_of_checks <;> decide +kernel

theorem inCycle_slotsApart : inCycle.SlotsApart := by constructor <;> decide +kernel

theorem inCycle_behaves : inCycle.transportBehaves := by
  intro rest op ops ht ho
  have h : inCycle.transportOps = [.write 1 3 0x7FFFFFFF] := rfl
  rw [h] at ho
  obtain ⟨rfl, rfl⟩ := List.cons.inj ho
  exact ⟨by decide +kernel, by decide +kernel, by decide +kernel⟩

theorem witness_StepKeepsTheInvariant : armed.Inv ∧ (nextState (step { armed with turns := [.accel] })).isSome = true :=
  ⟨armed_inv, by decide +kernel⟩

theorem witness_RunsNeverStop : inCycle.Inv := inCycle_inv

theorem witness_EveryAccelStepBringsTheJobCloser :
    State.Inv { armed with turns := [.accel] } ∧ armed.accelBusy = true ∧ descValid armed.mem armed.cp = true ∧
      (nextState (step { armed with turns := [.accel] })).isSome = true :=
  ⟨armed_inv.congr rfl rfl rfl rfl rfl rfl rfl rfl rfl rfl rfl rfl, by decide +kernel⟩

theorem witness_ContractKeepsTheSlotsApart :
    inCycle.Inv ∧ inCycle.SlotsApart ∧ inCycle.transportBehaves ∧ (nextState (step inCycle)).isSome = true :=
  ⟨inCycle_inv, inCycle_slotsApart, inCycle_behaves, by decide +kernel⟩

theorem witness_TransportLeavesTheSlotBeingReadAlone :
    inCycle.Inv ∧ inCycle.SlotsApart ∧ inCycle.transportBehaves ∧ inCycle.turns = .transport :: [] ∧
      inCycle.phase = .converting ∧ inCycle.mode = .liveStreaming ∧ inCycle.blockReady = false ∧
      (nextState (step inCycle)).isSome = true :=
  ⟨inCycle_inv, inCycle_slotsApart, inCycle_behaves, by decide +kernel⟩

end Sys2Proof.Tests
end

section
/-! `clog2` and the binary32 arithmetic of `00_scope.md` (R10, R14): the statements of that part of the spec. -/

namespace Sys2Proof.Machine

/-! ## `clog2` (R10) -/

theorem clog2_le_iff (n e : Nat) : clog2 n ≤ e ↔ n ≤ 2 ^ e := by
  rw [clog2]
  split
  case isTrue h => exact iff_of_true (Nat.zero_le e) (h.trans Nat.one_le_two_pow)
  case isFalse h => rw [Nat.succ_le_iff, Nat.log2_lt (by omega)]; omega

/-- Settles O22: `clog2` is the lower adjoint of `2 ^ ·`. -/
theorem clogIsTheLeastExponent : Obligations.ClogIsTheLeastExponent :=
  fun n _ => ⟨(clog2_le_iff n _).mp le_rfl, fun e => (clog2_le_iff n e).mpr⟩

/-! ## Classes of binary32 words (R14) -/

theorem f32IsFinite_iff (a : Word) : f32IsFinite a = true ↔ f32IsNaN a = false ∧ f32IsInf a = false := by
  by_cases he : f32Exp a = 255 <;> by_cases hf : f32Frac a = 0 <;> simp [f32IsFinite, f32IsNaN, f32IsInf, he, hf]

theorem not_isNaN_of_isInf {a : Word} (h : f32IsInf a = true) : f32IsNaN a = false := by
  simp only [f32IsInf, Bool.and_eq_true, beq_iff_eq] at h
  simp [f32IsNaN, h.2]

theorem not_isZero_of_isInf {a : Word} (h : f32IsInf a = true) : f32IsZero a = false := by
  simp only [f32IsInf, Bool.and_eq_true, beq_iff_eq] at h
  simp [f32IsZero, h.1]

/-- A word with all exponent bits and bit 22 set is a NaN, and quiet. -/
theorem f32NaN_quiet (draw : Word) : f32IsNaN (f32NaN draw) = true ∧ (f32NaN draw).getLsbD 22 = true := by
  have hexp : (f32NaN draw).extractLsb' 23 8 = 255#8 := by
    ext i hi
    interval_cases i <;> simp [f32NaN]
  have hbit : (f32NaN draw).getLsbD 22 = true := by simp [f32NaN]
  have hfrac : f32Frac (f32NaN draw) ≠ 0 := fun h => by
    have hb : ((f32NaN draw).extractLsb' 0 23).getLsbD 22 = true := by simpa using hbit
    rw [BitVec.getLsbD, show ((f32NaN draw).extractLsb' 0 23).toNat = 0 from h] at hb
    simp at hb
  exact ⟨by simp [f32IsNaN, f32Exp, hexp, hfrac], hbit⟩

theorem f32Exp_eq (a : Word) : f32Exp a = a.toNat % 2 ^ 31 / 2 ^ 23 := by
  conv_lhs => rw [← f32Pack_self a]
  exact f32Pack_exp _ _ (Nat.mod_lt _ (by decide))

theorem f32Frac_eq (a : Word) : f32Frac a = a.toNat % 2 ^ 31 % 2 ^ 23 := by
  conv_lhs => rw [← f32Pack_self a]
  exact f32Pack_frac _ _ (Nat.mod_lt _ (by decide))

/-- The only words of magnitude 0 are the two zeros. -/
theorem eq_f32Pack_zero_of_mag {a : Word} (h : f32Mag a = 0) : a = f32Pack (f32Sign a) 0 := by
  have hbits : a.toNat % 2 ^ 31 = 0 := by
    rw [f32Mag] at h
    split at h
    case isTrue he => rw [f32Exp_eq] at he; rw [f32Frac_eq] at h; omega
    case isFalse => simp at h
  conv_lhs => rw [← f32Pack_self a, hbits]

/-! ## The product, class by class (R14) -/

theorem f32Mul_invalid {a b : Word}
    (h : f32IsNaN a = true ∨ f32IsNaN b = true ∨ (f32IsInf a = true ∧ f32IsZero b = true) ∨
      (f32IsZero a = true ∧ f32IsInf b = true)) : f32Mul a b = f32NaN (Config.nanProduct a b) := by
  rcases h with h | h | ⟨ha, hb⟩ | ⟨ha, hb⟩ <;> simp [f32Mul, *]

theorem f32Mul_inf_left {a b : Word} (ha : f32IsInf a = true) (hb : f32IsNaN b = false) (hz : f32IsZero b = false) :
    f32Mul a b = f32Inf (f32Sign a != f32Sign b) := by
  simp [f32Mul, ha, hb, hz, not_isNaN_of_isInf ha, not_isZero_of_isInf ha]

theorem f32Mul_inf_right {a b : Word} (hb : f32IsInf b = true) (ha : f32IsNaN a = false) (hz : f32IsZero a = false) :
    f32Mul a b = f32Inf (f32Sign a != f32Sign b) := by
  simp [f32Mul, ha, hb, hz, not_isNaN_of_isInf hb, not_isZero_of_isInf hb]

theorem f32Mul_finite {a b : Word} (ha : f32IsFinite a = true) (hb : f32IsFinite b = true) :
    f32Mul a b = f32Round (f32Sign a != f32Sign b) (f32Mag a * f32Mag b) 149 := by
  obtain ⟨han, hai⟩ := (f32IsFinite_iff a).mp ha
  obtain ⟨hbn, hbi⟩ := (f32IsFinite_iff b).mp hb
  simp [f32Mul, han, hai, hbn, hbi]

/-! ## The sum, class by class (R14) -/

theorem f32Add_invalid {a b : Word}
    (h : f32IsNaN a = true ∨ f32IsNaN b = true ∨ (f32IsInf a = true ∧ f32IsInf b = true ∧ f32Sign a ≠ f32Sign b)) :
    f32Add a b = f32NaN (Config.nanSum a b) := by
  rcases h with h | h | ⟨ha, hb, hs⟩
  · simp [f32Add, h]
  · simp [f32Add, h]
  · simp [f32Add, ha, hb, hs]

theorem f32Add_self_inf {a : Word} (ha : f32IsInf a = true) : f32Add a a = a := by
  simp [f32Add, ha, not_isNaN_of_isInf ha]

theorem f32Add_inf_finite {a b : Word} (ha : f32IsInf a = true) (hb : f32IsFinite b = true) :
    f32Add a b = a ∧ f32Add b a = a := by
  obtain ⟨hbn, hbi⟩ := (f32IsFinite_iff b).mp hb
  simp [f32Add, ha, hbn, hbi, not_isNaN_of_isInf ha]

theorem f32Add_finite {a b : Word} (ha : f32IsFinite a = true) (hb : f32IsFinite b = true) :
    f32Add a b =
      if f32Units a + f32Units b = 0 then f32Pack (f32Sign a && f32Sign b) 0
      else f32Round (decide (f32Units a + f32Units b < 0)) (f32Units a + f32Units b).natAbs 0 := by
  obtain ⟨han, hai⟩ := (f32IsFinite_iff a).mp ha
  obtain ⟨hbn, hbi⟩ := (f32IsFinite_iff b).mp hb
  simp [f32Add, han, hai, hbn, hbi]

/-- Two words of negative sign sum to zero only if both are `-0.0`. -/
theorem f32Pack_zero_sum {a b : Word} (h : f32Units a + f32Units b = 0) :
    f32Pack (f32Sign a && f32Sign b) 0 = if a = 0x80000000 ∧ b = 0x80000000 then 0x80000000 else 0 := by
  by_cases hs : f32Sign a = true ∧ f32Sign b = true
  · obtain ⟨hsa, hsb⟩ := hs
    simp only [f32Units, hsa, hsb, if_true] at h
    have ha := eq_f32Pack_zero_of_mag (a := a) (by omega)
    have hb := eq_f32Pack_zero_of_mag (a := b) (by omega)
    rw [hsa] at ha
    rw [hsb] at hb
    rw [ha, hb]
    decide
  · have hne : ¬(a = 0x80000000 ∧ b = 0x80000000) := by
      rintro ⟨rfl, rfl⟩
      exact hs (by decide)
    have hsign : (f32Sign a && f32Sign b) = false := by simpa using hs
    rw [if_neg hne, hsign]
    decide

/-- Settles O16, class by class. -/
theorem sumAndProduct : Obligations.SumAndProduct := by
  intro a b
  refine ⟨fun h => ?_, fun h => ?_, fun ha hb hz => ?_, fun ha hb => ?_, fun ha hb => ⟨?_, fun hz => ?_, fun hz => ?_⟩⟩
  · rw [f32Mul_invalid h]; exact f32NaN_quiet _
  · rw [f32Add_invalid h]; exact f32NaN_quiet _
  · exact ⟨f32Mul_inf_left ha hb hz, by rw [f32Mul_inf_right ha hb hz, bne_comm]⟩
  · rcases hb with hb | rfl
    · exact f32Add_inf_finite ha hb
    · exact ⟨f32Add_self_inf ha, f32Add_self_inf ha⟩
  · exact f32Mul_finite ha hb
  · rw [f32Add_finite ha hb, if_neg hz]
  · rw [f32Add_finite ha hb, if_pos hz, f32Pack_zero_sum hz]

/-! ## The rounding (R14) -/

/-- A word's magnitude is a multiple of `2^e`, or lies below the smallest magnitude with 24 significant bits at that scale. -/
theorem pow_dvd_f32Mag_or_lt (g : Word) (e : Nat) : 2 ^ e ∣ f32Mag g ∨ f32Mag g < 2 ^ (23 + e) := by
  have hfrac : f32Frac g < 2 ^ 23 := (g.extractLsb' 0 23).isLt
  rw [f32Mag]
  split
  case isTrue => exact .inr (hfrac.trans_le (Nat.pow_le_pow_right (by decide) (Nat.le_add_right ..)))
  case isFalse =>
    rcases Nat.lt_or_ge (f32Exp g - 1) e with h | h
    · right
      calc (2 ^ 23 + f32Frac g) * 2 ^ (f32Exp g - 1) < 2 ^ 24 * 2 ^ (f32Exp g - 1) :=
            Nat.mul_lt_mul_of_pos_right (by omega) (Nat.two_pow_pos _)
        _ = 2 ^ (24 + (f32Exp g - 1)) := (Nat.pow_add ..).symm
        _ ≤ 2 ^ (23 + e) := Nat.pow_le_pow_right (by decide) (by omega)
    · exact .inl (Dvd.dvd.mul_left (Nat.pow_dvd_pow 2 h) _)

/-- The quotient reaches an even number at the midpoint below it, the tie included. -/
theorem even_le_rneDiv_iff (num half m : Nat) (hh : 0 < half) (hm : m % 2 = 0) :
    m ≤ rneDiv num (2 * half) ↔ m * (2 * half) ≤ num + half := by
  obtain ⟨hlo, hhi, htie⟩ := rneDiv_nearest num (2 * half) (by omega)
  generalize rneDiv num (2 * half) = q at *
  constructor
  · intro hq
    have := Nat.mul_le_mul_right (2 * half) hq
    omega
  · intro hn
    by_contra hq
    have hstep : (q + 1) * (2 * half) ≤ m * (2 * half) := Nat.mul_le_mul_right _ (by omega)
    have hsucc : (q + 1) * (2 * half) = q * (2 * half) + 2 * half := Nat.succ_mul ..
    have hnext : q + 1 = m := Nat.eq_of_mul_eq_mul_right (by omega : 0 < 2 * half) (by omega)
    have := htie (.inr (by omega))
    omega

/-- The scale `2^e` at which `n * 2^-k` is rounded: its quotient fits 24 bits, and uses them all unless `e = 0`. -/
structure F32Scale (n k e : Nat) : Prop where
  lt : n < 2 ^ 24 * 2 ^ (k + e)
  full : e = 0 ∨ 2 ^ 23 * 2 ^ (k + e) ≤ n

theorem f32RoundBits_eq (n k : Nat) :
    ∃ e, F32Scale n k e ∧ f32RoundBits n k = min 0x7F800000 (e * 2 ^ 23 + rneDiv n (2 ^ (k + e))) := by
  have hdrop : max k (n.log2 + 1 - 24) = k + (max k (n.log2 + 1 - 24) - k) := by omega
  have hlt : n < 2 ^ (n.log2 + 1) := Nat.lt_log2_self
  refine ⟨max k (n.log2 + 1 - 24) - k, ⟨?_, ?_⟩, ?_⟩
  · rw [← hdrop, ← Nat.pow_add]
    exact hlt.trans_le (Nat.pow_le_pow_right (by decide) (by omega))
  · rcases Nat.eq_zero_or_pos (max k (n.log2 + 1 - 24) - k) with h | h
    · exact .inl h
    · right
      have hn : n ≠ 0 := by rintro rfl; simp at h
      rw [← hdrop, ← Nat.pow_add]
      exact (Nat.pow_le_pow_right (by decide) (by omega)).trans (Nat.log2_self_le hn)
  · rw [← hdrop, f32RoundBits, Nat.min_def]

namespace F32Scale

variable {n k e : Nat}

/-- The quotient at the scale has at most 24 significant bits, unless it is `2^24` itself. -/
theorem quot_le (h : F32Scale n k e) : rneDiv n (2 ^ (k + e)) ≤ 2 ^ 24 := by
  have hpos : 0 < 2 ^ (k + e) := Nat.two_pow_pos _
  obtain ⟨hle, -, -⟩ := rneDiv_nearest n _ hpos
  have hlt := h.lt
  by_contra hq
  have := Nat.mul_le_mul_right (2 ^ (k + e)) (Nat.lt_of_not_le hq)
  simp only [Nat.succ_eq_add_one, Nat.add_mul] at this
  omega

theorem le_quot (h : F32Scale n k e) (he : e ≠ 0) : 2 ^ 23 ≤ rneDiv n (2 ^ (k + e)) := by
  have hpos : 0 < 2 ^ (k + e) := Nat.two_pow_pos _
  obtain ⟨-, hle, -⟩ := rneDiv_nearest n _ hpos
  have hfull := h.full.resolve_left he
  by_contra hq
  have := Nat.mul_le_mul_right (2 ^ (k + e)) (Nat.lt_of_not_le hq)
  simp only [Nat.succ_eq_add_one, Nat.add_mul] at this
  omega

/-- The rounded quotient overflows exactly from the midpoint of the largest finite value and `2^128` on. -/
theorem overflow_iff (h : F32Scale n k e) :
    0x7F800000 ≤ e * 2 ^ 23 + rneDiv n (2 ^ (k + e)) ↔ (2 ^ 25 - 1) * 2 ^ (252 + k) ≤ n := by
  have hle := h.quot_le
  have hlt := h.lt
  rcases Nat.lt_trichotomy e 253 with he | rfl | he
  · have hpow : 2 ^ (k + e) ≤ 2 ^ (252 + k) := Nat.pow_le_pow_right (by decide) (by omega)
    omega
  · have hpow : 2 ^ (k + 253) = 2 * 2 ^ (252 + k) := by ring
    have hmid := even_le_rneDiv_iff n (2 ^ (252 + k)) (2 ^ 24) (Nat.two_pow_pos _) (by decide)
    rw [hpow]
    omega
  · have hpow : 2 ^ (254 + k) ≤ 2 ^ (k + e) := Nat.pow_le_pow_right (by decide) (by omega)
    have hquot := h.le_quot (by omega)
    have hfull := h.full.resolve_left (by omega)
    have : 2 ^ (254 + k) = 4 * 2 ^ (252 + k) := by rw [show 254 + k = 2 + (252 + k) by omega, Nat.pow_add]
    omega

/-- The exponent and the quotient of a result that does not overflow make up its magnitude. -/
theorem mag_pack (h : F32Scale n k e) (sign : Bool) (hb : e * 2 ^ 23 + rneDiv n (2 ^ (k + e)) < 0x7F800000) :
    f32Mag (f32Pack sign (e * 2 ^ 23 + rneDiv n (2 ^ (k + e)))) = rneDiv n (2 ^ (k + e)) * 2 ^ e := by
  have hle := h.quot_le
  have hge : e = 0 ∨ 2 ^ 23 ≤ rneDiv n (2 ^ (k + e)) := (eq_or_ne e 0).imp_right h.le_quot
  rw [f32Pack_mag _ _ (by omega)]
  generalize rneDiv n (2 ^ (k + e)) = q at *
  rcases Nat.lt_or_ge q (2 ^ 23) with hq | hq
  · obtain rfl : e = 0 := by omega
    rw [if_pos (by omega)]
    omega
  · rcases Nat.lt_or_ge q (2 ^ 24) with hq' | hq'
    · rw [if_neg (by omega), show (e * 2 ^ 23 + q) / 2 ^ 23 - 1 = e by omega,
        show 2 ^ 23 + (e * 2 ^ 23 + q) % 2 ^ 23 = q by omega]
    · obtain rfl : q = 2 ^ 24 := by omega
      rw [if_neg (by omega), show (e * 2 ^ 23 + 2 ^ 24) / 2 ^ 23 - 1 = 1 + e by omega,
        show (e * 2 ^ 23 + 2 ^ 24) % 2 ^ 23 = 0 by omega, Nat.pow_add, ← Nat.mul_assoc,
        show (2 ^ 23 + 0) * 2 ^ 1 = 2 ^ 24 from rfl]

/-- On the scale of the result every other magnitude is a multiple of the step, or too small to matter. -/
theorem mag_multiple_or_small (h : F32Scale n k e) (g : Word) :
    (∃ j, f32Mag g * 2 ^ k = j * 2 ^ (k + e)) ∨
      (f32Mag g * 2 ^ k < 2 ^ 23 * 2 ^ (k + e) ∧ 2 ^ 23 * 2 ^ (k + e) ≤ n) := by
  rcases h.full with rfl | hfull
  · exact .inl ⟨f32Mag g, rfl⟩
  · rcases pow_dvd_f32Mag_or_lt g e with ⟨j, hj⟩ | hlt
    · exact .inl ⟨j, by rw [hj]; ring⟩
    · refine .inr ⟨?_, hfull⟩
      calc f32Mag g * 2 ^ k < 2 ^ (23 + e) * 2 ^ k := Nat.mul_lt_mul_of_pos_right hlt (Nat.two_pow_pos k)
        _ = 2 ^ 23 * 2 ^ (k + e) := by ring

end F32Scale

/-- No multiple of `den` is nearer to `num` than the rounded one, and an equally near one only if the quotient is even. -/
theorem rneDiv_dist_le (num den j : Nat) (hd : 0 < den) :
    |(↑(rneDiv num den * den) : Int) - num| ≤ |(↑(j * den) : Int) - num| ∧
      (|(↑(rneDiv num den * den) : Int) - num| = |(↑(j * den) : Int) - num| → j ≠ rneDiv num den →
        rneDiv num den % 2 = 0) := by
  obtain ⟨hlo, hhi, htie⟩ := rneDiv_nearest num den hd
  generalize rneDiv num den = q at *
  rcases Nat.lt_trichotomy j q with hj | rfl | hj
  · have hstep : (j + 1) * den ≤ q * den := Nat.mul_le_mul_right den hj
    rw [Nat.add_mul] at hstep
    simp only [abs_eq_max_neg]
    generalize j * den = y at *
    generalize q * den = x at *
    omega
  · exact ⟨le_rfl, fun _ hne => absurd rfl hne⟩
  · have hstep : (q + 1) * den ≤ j * den := Nat.mul_le_mul_right den hj
    rw [Nat.add_mul] at hstep
    simp only [abs_eq_max_neg]
    generalize j * den = y at *
    generalize q * den = x at *
    omega

theorem natDist_lt_of_lt {x y n : Nat} (hyx : y < x) (hxn : x ≤ n) : |(x : Int) - n| < |(y : Int) - n| := by
  simp only [abs_eq_max_neg]
  omega

/-- No magnitude is nearer than the rounded quotient, and an equally near one only if the quotient is even. -/
theorem F32Scale.dist_le {n k e : Nat} (h : F32Scale n k e) (g : Word) :
    |(↑(rneDiv n (2 ^ (k + e)) * 2 ^ e) : Int) * 2 ^ k - n| ≤ |(f32Mag g : Int) * 2 ^ k - n| ∧
      (|(↑(rneDiv n (2 ^ (k + e)) * 2 ^ e) : Int) * 2 ^ k - n| = |(f32Mag g : Int) * 2 ^ k - n| →
        f32Mag g ≠ rneDiv n (2 ^ (k + e)) * 2 ^ e → rneDiv n (2 ^ (k + e)) % 2 = 0) := by
  have hpos : 0 < 2 ^ (k + e) := Nat.two_pow_pos _
  have hq : (↑(rneDiv n (2 ^ (k + e)) * 2 ^ e) : Int) * 2 ^ k = ↑(rneDiv n (2 ^ (k + e)) * 2 ^ (k + e)) := by
    push_cast; ring
  have hg : (f32Mag g : Int) * 2 ^ k = ↑(f32Mag g * 2 ^ k) := by push_cast; rfl
  rw [hq, hg]
  rcases h.mag_multiple_or_small g with ⟨j, hj⟩ | ⟨hlt, hle⟩
  · obtain ⟨hnear, htie⟩ := rneDiv_dist_le n (2 ^ (k + e)) j hpos
    rw [hj]
    refine ⟨hnear, fun heq hne => htie heq fun hjq => hne ?_⟩
    have : f32Mag g * 2 ^ k = rneDiv n (2 ^ (k + e)) * 2 ^ e * 2 ^ k := by rw [hj, hjq]; ring
    exact Nat.eq_of_mul_eq_mul_right (Nat.two_pow_pos k) this
  · have hnear := (rneDiv_dist_le n (2 ^ (k + e)) (2 ^ 23) hpos).1
    have hfar := natDist_lt_of_lt hlt hle
    exact ⟨(hnear.trans_lt hfar).le, fun heq => absurd heq (hnear.trans_lt hfar).ne⟩

theorem f32Pack_finite {sign : Bool} {bits : Nat} (h : bits < 0x7F800000) : f32IsFinite (f32Pack sign bits) = true := by
  rw [f32IsFinite, f32Pack_exp _ _ (by omega), bne_iff_ne]
  omega

theorem f32Pack_even {sign : Bool} {bits : Nat} (h : bits < 2 ^ 31) (he : bits % 2 = 0) :
    (f32Pack sign bits).getLsbD 0 = false := by
  rw [BitVec.getLsbD, f32Pack_toNat _ _ h, Nat.testBit_zero, decide_eq_false_iff_not]
  split <;> omega

/-- Settles O15, at the scale of the rounding. -/
theorem roundingGivesTheNearestValue : Obligations.RoundingGivesTheNearestValue := by
  intro sign n k
  obtain ⟨e, hscale, hbits⟩ := f32RoundBits_eq n k
  rw [f32Round, hbits]
  refine ⟨fun hn => ?_, fun hn => ?_⟩
  · rw [min_eq_left (hscale.overflow_iff.mpr hn), f32Inf]
  · have hb : e * 2 ^ 23 + rneDiv n (2 ^ (k + e)) < 0x7F800000 := by
      rw [← Nat.not_le, hscale.overflow_iff]
      exact Nat.not_le.mpr hn
    rw [min_eq_right hb.le, hscale.mag_pack sign hb]
    refine ⟨f32Pack_finite hb, f32Pack_sign _ _ (by omega), fun g _ => ?_⟩
    obtain ⟨hnear, htie⟩ := hscale.dist_le g
    refine ⟨hnear, fun heq hne => f32Pack_even (by omega) ?_⟩
    have := htie heq hne
    omega

end Sys2Proof.Machine
end

section
/-! Rules of the whole machine (`10_state.md` R21, R30, R38 to R40): what a command and an agent's step can do to the sticky
bits, the counters and the registers of the command interface. -/

namespace Sys2Proof.Machine

/-! ## What a command can do -/

/-- Every way a command can leave the state, guards aside: the end of the command (`60_exceptions.md` R271, `00_scope.md`
R13) over the change the command made before. -/
inductive CommandEnd (s : State) : State → Prop where
  /-- Every command: nothing done, a status raised. -/
  | raised (code : Status) : CommandEnd s (s.raiseStatus code)
  /-- `TOFLOAT`, `TOFIXED`, `STAGE`, `CAPTURE`: memory and, counting up, `SAT_COUNT`. -/
  | wroteMemory (m : Memory) (count : Word) (h : s.satCount.toNat ≤ count.toNat) :
      CommandEnd s (State.complete { s with mem := m, satCount := count } 0)
  /-- `CONFIGURE` (R167). -/
  | configured (m : Memory) (c : Nat) (taps : BitVec 16) :
      CommandEnd s (State.complete { s.setChan c taps with mem := m } 0)
  /-- `DISPATCH` that arms the job (R176). -/
  | dispatched : CommandEnd s (s.dispatchJob.2.complete 0)
  /-- `DISPATCH` that fails (R175, R177). -/
  | dispatchFailed (code : Status) : CommandEnd s (s.dispatchJob.2.raiseStatus code)
  /-- `NOP`, `ISDONE`: at most `filterDone` written. -/
  | tested (done : Bool) (res : Word) : CommandEnd s (State.complete { s with filterDone := done } res)
  /-- `WAITDONE`, held (R181). -/
  | held : CommandEnd s { s with waitHold := true }
  /-- `WAITDONE`, ended at once (R181). -/
  | waited : CommandEnd s s.finishWait
  /-- `START` in offline validation (R210). -/
  | startedOffline : CommandEnd s (State.complete
      { (State.dispatchJob { s with run := true, blockReady := false }).2 with
        processingActive := true, phase := .dispatched } 0)
  /-- `START` in live streaming (R210). -/
  | startedLive : CommandEnd s (State.complete (State.transportRise { s with run := true, blockReady := false }) 0)
  /-- `STOP` (R211). -/
  | stopped : CommandEnd s (State.complete { s with run := false, blockReady := false } 0)

theorem le_satInc (c : Word) : c.toNat ≤ (satInc c).toNat := by
  rw [satInc_toNat]
  have := c.isLt
  omega

/-- Converting to fixed point never takes the count of saturated samples back (`10_state.md` R40). -/
theorem le_convertToFixed_count (fxw : Nat) (dst src stride : Word) (len : Nat) (p : Memory × Word) :
    p.2.toNat ≤ (convertToFixed fxw dst src stride len p).2.toNat :=
  iterUp_keeps (fun q => p.2.toNat ≤ q.2.toNat) len _ p le_rfl fun i q _ hq => by
    refine hq.trans ?_
    simp only [convertSample]
    split_ifs
    · exact le_satInc q.2
    · exact le_rfl

theorem execTofloat_end {s t : State} (h : execTofloat s = .next t) : CommandEnd s t := by
  unfold execTofloat at h
  split_ifs at h <;> cases h
  · exact .raised _
  · exact .wroteMemory _ s.satCount le_rfl
  · exact .raised _

theorem execTofixed_end {s t : State} (h : execTofixed s = .next t) : CommandEnd s t := by
  unfold execTofixed at h
  split_ifs at h <;> cases h
  · exact .raised _
  · exact .wroteMemory _ _ (le_convertToFixed_count _ _ _ _ _ (s.mem, s.satCount))
  · exact .raised _

theorem execStage_end {c : Nat} {s t : State} (h : execStage c s = .next t) : CommandEnd s t := by
  unfold execStage at h
  split_ifs at h <;> cases h
  · exact .raised _
  · exact .raised _
  · exact .raised _
  · exact .wroteMemory _ s.satCount le_rfl

theorem execCapture_end {c : Nat} {s t : State} (h : execCapture c s = .next t) : CommandEnd s t := by
  unfold execCapture at h
  split_ifs at h <;> cases h
  · exact .raised _
  · exact .raised _
  · exact .raised _
  · exact .wroteMemory _ s.satCount le_rfl

theorem execConfigure_end {c : Nat} {s t : State} (h : execConfigure c s = .next t) : CommandEnd s t := by
  unfold execConfigure at h
  split_ifs at h <;> cases h
  · exact .raised _
  · exact .raised _
  · exact .raised _
  · exact .configured _ _ _

theorem execDispatch_end {s t : State} (h : execDispatch s = .next t) : CommandEnd s t := by
  unfold execDispatch at h
  split at h
  · cases h
    exact .raised _
  · split at h
    · next u hu =>
      cases h
      rw [← show s.dispatchJob.2 = u by rw [hu]]
      exact .dispatched
    · next code u _ hu =>
      cases h
      rw [← show s.dispatchJob.2 = u by rw [hu]]
      exact .dispatchFailed code

theorem execIsdone_end {s t : State} (h : execIsdone s = .next t) : CommandEnd s t := by
  unfold execIsdone at h
  split_ifs at h <;> cases h
  · exact .raised _
  · exact .tested false 1
  · exact .tested s.filterDone 0

theorem execWaitdone_end {s t : State} (h : execWaitdone s = .next t) : CommandEnd s t := by
  unfold execWaitdone at h
  split_ifs at h <;> cases h
  · exact .raised _
  · exact .raised _
  · exact .waited
  · exact .held

theorem execStart_end {s t : State} (h : execStart s = .next t) : CommandEnd s t := by
  unfold execStart at h
  split at h
  · cases h
    exact .raised _
  · split at h
    · cases h
      exact .raised _
    · split at h <;> cases h
      · exact .startedOffline
      · exact .startedLive

theorem execStop_end {s t : State} (h : execStop s = .next t) : CommandEnd s t := by
  unfold execStop at h
  split_ifs at h <;> cases h
  · exact .raised _
  · exact .stopped

/-- Every command ends in one of the ways listed. -/
theorem exec_end {i : Instr} {s t : State} (h : exec i s = .next t) : CommandEnd s t := by
  cases i with
  | nop => cases h; exact .tested s.filterDone 0
  | tofloat => exact execTofloat_end h
  | tofixed => exact execTofixed_end h
  | stage c => exact execStage_end h
  | capture c => exact execCapture_end h
  | configure c => exact execConfigure_end h
  | dispatch => exact execDispatch_end h
  | isdone => exact execIsdone_end h
  | waitdone => exact execWaitdone_end h
  | start => exact execStart_end h
  | stop => exact execStop_end h

/-! ## What only grows: the sticky bits and the counters (R30, R38 to R40) -/

/-- The sticky bits and the counters, as a point of the product order: `s.ledger ≤ t.ledger` says that no bit was cleared
and no counter taken back. -/
def State.ledger (s : State) : (Bool × Bool × Bool) × Nat × Nat × Nat :=
  ((s.cfgError, s.busFault, s.protoFault), s.overrunCount.toNat, s.blockCount.toNat, s.satCount.toNat)

theorem State.ledger_le_iff (s t : State) :
    s.ledger ≤ t.ledger ↔
      ((s.cfgError = true → t.cfgError = true) ∧ (s.busFault = true → t.busFault = true) ∧
        (s.protoFault = true → t.protoFault = true)) ∧
      s.overrunCount.toNat ≤ t.overrunCount.toNat ∧ s.blockCount.toNat ≤ t.blockCount.toNat ∧
        s.satCount.toNat ≤ t.satCount.toNat := by
  simp only [State.ledger, Prod.mk_le_mk, Bool.le_iff_imp]

theorem State.ledger_le_raiseStatus (s : State) (code : Status) : s.ledger ≤ (s.raiseStatus code).ledger := by
  rw [State.raiseStatus_eq, State.ledger_le_iff]
  simp +contextual

/-- The `ARG` registers (R21). -/
def State.args (s : State) : Word × Word × Word × Word := (s.arg0, s.arg1, s.arg2, s.arg3)

/-- The `ARG` registers with `STATUS` and `RES` (R22): what software and a command pass each other. -/
def State.mailbox (s : State) : (Word × Word × Word × Word) × Status × Word := (s.args, s.status, s.res)

theorem State.args_raiseStatus (s : State) (code : Status) : (s.raiseStatus code).args = s.args := by
  rw [State.raiseStatus_eq]
  rfl

/-- What a step of a unit or of the transport is, as far as software's registers go: the ledger grows, the mailbox stays. -/
def UnitStep (s t : State) : Prop := s.ledger ≤ t.ledger ∧ t.mailbox = s.mailbox

theorem UnitStep.refl (s : State) : UnitStep s s := ⟨le_rfl, rfl⟩

/-- `Dispatch()` is a unit's step; in software's registers it counts an overrun or sets `cfgError`. -/
theorem dispatchJob_unitStep (s : State) : UnitStep s s.dispatchJob.2 := by
  obtain ⟨-, e⟩ | ⟨-, -, -, e⟩ | ⟨-, -, -, e⟩ := s.dispatchJob_cases <;> rw [e]
  · exact ⟨(State.ledger_le_iff ..).mpr ⟨⟨id, id, id⟩, le_satInc _, le_rfl, le_rfl⟩, rfl⟩
  · exact .refl s
  · exact ⟨(State.ledger_le_iff ..).mpr ⟨⟨fun _ => rfl, id, id⟩, le_rfl, le_rfl, le_rfl⟩, rfl⟩

theorem dispatchJob_args (s : State) : s.dispatchJob.2.args = s.args := congrArg Prod.fst (dispatchJob_unitStep s).2

/-- `WAITDONE` ends (`42_fir_engine.md` R181) with `OK` or `ERR_NO_JOB`, neither tied to a sticky bit or a counter. -/
theorem finishWait_ledger (s : State) : s.finishWait.ledger = s.ledger := by
  obtain ⟨-, e⟩ | ⟨-, e⟩ := s.finishWait_cases <;> rw [e] <;> rfl

theorem CommandEnd.ledger_le {s t : State} (h : CommandEnd s t) : s.ledger ≤ t.ledger := by
  cases h with
  | raised code => exact s.ledger_le_raiseStatus code
  | wroteMemory m count hc => exact (State.ledger_le_iff ..).mpr ⟨⟨id, id, id⟩, le_rfl, le_rfl, hc⟩
  | configured m c taps => exact le_rfl
  | dispatched => exact (dispatchJob_unitStep s).1
  | dispatchFailed code => exact (dispatchJob_unitStep s).1.trans (State.ledger_le_raiseStatus _ code)
  | tested done res => exact le_rfl
  | held => exact le_rfl
  | waited => exact (finishWait_ledger s).ge
  | startedOffline => exact (dispatchJob_unitStep { s with run := true, blockReady := false }).1
  | startedLive => exact le_rfl
  | stopped => exact le_rfl

/-- No command writes an `ARG` register. -/
theorem CommandEnd.args_eq {s t : State} (h : CommandEnd s t) : t.args = s.args := by
  cases h with
  | raised code => exact s.args_raiseStatus code
  | wroteMemory m count hc => rfl
  | configured m c taps => rfl
  | dispatched => exact dispatchJob_args s
  | dispatchFailed code => rw [State.args_raiseStatus, dispatchJob_args]
  | tested done res => rfl
  | held => rfl
  | waited => obtain ⟨-, e⟩ | ⟨-, e⟩ := s.finishWait_cases <;> rw [e] <;> rfl
  | startedOffline => exact dispatchJob_args { s with run := true, blockReady := false }
  | startedLive => rfl
  | stopped => rfl

/-! ## The steps of the units and of the transport -/

theorem stepS2_unitStep {s t : State} (h : s.stepS2 = .next t) : UnitStep s t := by
  unfold State.stepS2 at h
  split at h <;> cases h
  exact .refl s

/-- S3 (`43_orchestrator.md` R221) moves software's registers only by its `Dispatch()`. -/
theorem stepS3_unitStep {s t : State} (h : s.stepS3 = .next t) : UnitStep s t := by
  have hd : UnitStep s s.stageAll.dispatchJob.2 := dispatchJob_unitStep s.stageAll
  unfold State.stepS3 at h
  split at h
  · split at h <;> next e => rw [e] at hd; cases h; exact hd
  · cases h

/-- S5 (R223) counts the saturated samples of every channel. -/
theorem stepS5_unitStep {s t : State} (h : s.stepS5 = .next t) : UnitStep s t := by
  unfold State.stepS5 at h
  split at h <;> cases h
  refine ⟨(State.ledger_le_iff ..).mpr ⟨⟨id, id, id⟩, le_rfl, le_rfl, ?_⟩, rfl⟩
  exact iterUp_keeps (fun p => s.satCount.toNat ≤ p.2.toNat) _ _ (s.mem, s.satCount) le_rfl fun c p _ hp =>
    hp.trans (le_convertToFixed_count ..)

theorem stepOrch_unitStep {s t : State} (h : s.stepOrch = .next t) : UnitStep s t := by
  unfold State.stepOrch at h
  cases he : s.orchEnabled with
  | none => rw [he] at h; cases h; exact .refl s
  | some o =>
    rw [he] at h
    cases o with
    | s1 | s4 | s4v => cases h; exact .refl s
    | s2 => exact stepS2_unitStep h
    | s3 => exact stepS3_unitStep h
    | s5 => exact stepS5_unitStep h

theorem advanceJob_unitStep (s : State) (next : Word) : UnitStep s (s.advanceJob next) := by
  obtain ⟨-, e⟩ | ⟨-, -, e⟩ | ⟨-, -, e⟩ := s.advanceJob_cases next <;> rw [e] <;> exact .refl s

/-- X1 (`42_fir_engine.md` R190, R191): in software's registers only its abort shows, as `cfgError`. -/
theorem stepX1_unitStep (s : State) : UnitStep s s.stepX1 := by
  obtain ⟨-, e⟩ | ⟨-, e⟩ := s.stepX1_cases <;> rw [e]
  · exact advanceJob_unitStep { s with mem := writeOutputs s.mem (s.mem.descriptor s.cp) } _
  · exact ⟨(State.ledger_le_iff ..).mpr ⟨⟨fun _ => rfl, id, id⟩, le_rfl, le_rfl, le_rfl⟩, rfl⟩

/-- `DELIVER` (R213) counts the block and its overrun, or sets `protoFault`. -/
theorem deliver_unitStep (s : State) (slot group : Nat) : UnitStep s (s.deliver slot group) := by
  obtain ⟨-, e⟩ | ⟨-, -, e⟩ | ⟨-, -, -, e⟩ := s.deliver_cases slot group <;> rw [e]
  · exact .refl s
  · exact ⟨(State.ledger_le_iff ..).mpr ⟨⟨id, id, fun _ => rfl⟩, le_rfl, le_rfl, le_rfl⟩, rfl⟩
  · refine ⟨(State.ledger_le_iff ..).mpr ⟨⟨id, id, id⟩, ?_, le_satInc _, le_rfl⟩, rfl⟩
    show _ ≤ (if _ then _ else _ : Word).toNat
    split
    · exact le_satInc _
    · exact le_rfl

theorem transportTurn_unitStep (s : State) : UnitStep s s.transportTurn := by
  unfold State.transportTurn
  split
  · exact .refl s
  · next op ops _ =>
    cases op with
    | write slot offset w => exact .refl s
    | read slot offset => exact .refl s
    | deliver slot group =>
      have hd : UnitStep s (State.deliver { s with transportOps := ops } slot group) :=
        deliver_unitStep { s with transportOps := ops } slot group
      simp only [State.transportOp]
      split <;> exact hd

/-! ## The host's turn -/

/-- A bus write to a register other than `CMD` writes an `ARG` register or a gated one, never a fault bit or a counter. -/
theorem writeReg_ledger {s t : State} {r : Reg} {w : Word} (hr : r ≠ .cmd) (h : s.writeReg r w = .next t) :
    t.ledger = s.ledger := by
  cases r with
  | cmd => exact absurd rfl hr
  | ctrl | nch | bsize | iter | firHead =>
    cases h
    split <;> rfl
  | _ => cases h; rfl

theorem busWrite_ledger_le {s t : State} {a w : Word} (h : s.busWrite a w = .next t) : s.ledger ≤ t.ledger := by
  obtain ⟨-, rfl⟩ | ⟨-, -, rfl⟩ | ⟨r, -, hr, hw⟩ | ⟨-, e, -, rfl⟩ | ⟨-, i, -, hi⟩ := busWrite_cases s t a w h
  · exact le_rfl
  · exact (State.ledger_le_iff ..).mpr ⟨⟨id, fun _ => rfl, id⟩, le_rfl, le_rfl, le_rfl⟩
  · exact (writeReg_ledger hr hw).ge
  · exact s.ledger_le_raiseStatus .errIllegal
  · exact (exec_end hi).ledger_le

theorem busRead_ledger_le (s : State) (a : Word) : s.ledger ≤ (s.busRead a).ledger := by
  unfold State.busRead
  split
  · exact le_rfl
  · split
    · exact le_rfl
    · exact (State.ledger_le_iff ..).mpr ⟨⟨id, fun _ => rfl, id⟩, le_rfl, le_rfl, le_rfl⟩

theorem hostTurn_ledger_le {s t : State} (h : s.hostTurn = .next t) : s.ledger ≤ t.ledger := by
  unfold State.hostTurn at h
  split at h
  · cases h
    split
    · exact (finishWait_ledger s).ge
    · exact le_rfl
  · split at h
    · cases h; exact le_rfl
    · next op ops _ =>
      cases op with
      | read a => cases h; exact busRead_ledger_le { s with hostOps := ops } a
      | write a w => exact busWrite_ledger_le (s := { s with hostOps := ops }) h

/-! ## The rules of every step -/

/-- A step of the orchestrator, the accelerator or the transport is a unit's step. -/
theorem step_unitStep {s t : State} (h : step s = .next t)
    (hu : s.turns.head? = some .orch ∨ s.turns.head? = some .accel ∨ s.turns.head? = some .transport) : UnitStep s t := by
  cases hs : s.turns with
  | nil => simp [hs] at hu
  | cons turn rest =>
    rw [step_cons s turn rest hs] at h
    cases turn with
    | host => simp [hs] at hu
    | reset => simp [hs] at hu
    | transport => cases h; exact transportTurn_unitStep { s with turns := rest }
    | orch => exact stepOrch_unitStep (s := { s with turns := rest }) h
    | accel =>
      cases h
      split
      · exact stepX1_unitStep { s with turns := rest }
      · exact .refl s

/-- Every step but a hardware reset grows the ledger. -/
theorem step_ledger_le {s t : State} (h : step s = .next t) (hr : s.turns.head? ≠ some .reset) : s.ledger ≤ t.ledger := by
  cases hs : s.turns with
  | nil => rw [step_nil s hs] at h; cases h; exact le_rfl
  | cons turn rest =>
    cases turn with
    | host =>
      rw [step_cons s _ rest hs] at h
      exact hostTurn_ledger_le (s := { s with turns := rest }) h
    | reset => exact absurd (congrArg List.head? hs) hr
    | transport => exact (step_unitStep h (.inr (.inr (congrArg List.head? hs)))).1
    | orch => exact (step_unitStep h (.inl (congrArg List.head? hs))).1
    | accel => exact (step_unitStep h (.inr (.inl (congrArg List.head? hs)))).1

/-- Settles O50: the sticky bits are part of the ledger. -/
theorem stickyBitsStaySet : Obligations.StickyBitsStaySet :=
  fun s t h hr => ((State.ledger_le_iff s t).mp (step_ledger_le h hr)).1

/-- Settles O51: the counters are part of the ledger. -/
theorem countersAreMonotonic : Obligations.CountersAreMonotonic :=
  fun s t h hr => ((State.ledger_le_iff s t).mp (step_ledger_le h hr)).2

/-- Settles O52: a command keeps the arguments of the mailbox, a unit's step all of it. -/
theorem onlyBusWritesChangeArguments : Obligations.OnlyBusWritesChangeArguments := by
  refine ⟨fun i s t h => ?_, fun s t h hu => ?_⟩
  · simpa only [State.args, Prod.mk.injEq] using (exec_end h).args_eq
  · simpa only [State.mailbox, State.args, Prod.mk.injEq, and_assoc] using (step_unitStep h hu).2

end Sys2Proof.Machine
end

section
/-! The registers on the bus (`10_state.md` R42, R44, `44_host_bus.md` R251, R252) and their reset values (R56). -/

namespace Sys2Proof.Machine

/-! ## The register map (R42) -/

theorem regBase_toNat (n : Nat) (hn : n < 0x10000) : ((0xFF000000 : Word) + BitVec.ofNat 32 n).toNat = 0xFF000000 + n := by
  rw [BitVec.toNat_add, BitVec.toNat_ofNat, show (0xFF000000 : Word).toNat = 0xFF000000 from rfl]
  omega

/-- The fields of the address of register number `n` (`20_memory.md` R70, R77). -/
theorem regBase_fields (n : Nat) (hn : n < 0x10000) :
    addrRegion (0xFF000000 + BitVec.ofNat 32 n) = 0xFF ∧ addrUnit (0xFF000000 + BitVec.ofNat 32 n) = 0 ∧
      addrOffset (0xFF000000 + BitVec.ofNat 32 n) = n := by
  rw [addrRegion_eq, addrUnit_eq, addrOffset_eq, regBase_toNat n hn]
  omega

theorem regAt_regBase (n : Nat) (hn : n < 0x10000) : regAt (0xFF000000 + BitVec.ofNat 32 n) = Reg.ofNumber n := by
  obtain ⟨hr, hu, ho⟩ := regBase_fields n hn
  rw [regAt, if_pos ⟨hr, hu⟩, ho]

/-- No register address is a data address. -/
theorem mapped_eq_false_of_regAt {a : Word} {r : Reg} (h : regAt a = some r) : mapped a = false := by
  have hr : addrRegion a = 0xFF := by
    by_contra hne
    rw [regAt, if_neg fun hc => hne hc.1] at h
    cases h
  rw [mapped, hr]
  rfl

/-- Where the listed registers end: the numbers of the bank `CHCFG`, and nothing beyond. -/
theorem Reg.ofNumber_of_ge (n : Nat) (hn : 0x14 ≤ n) :
    Reg.ofNumber n = if 0x20 ≤ n ∧ n < 0x30 then some (.chcfg (n - 0x20)) else none := by
  unfold Reg.ofNumber
  split
  case h_19 => rfl
  all_goals omega

theorem Reg.ofNumber_chcfg (c : Nat) (hc : c < 16) : Reg.ofNumber (0x20 + c) = some (.chcfg c) := by
  rw [Reg.ofNumber_of_ge _ (by omega), if_pos (by omega), Nat.add_sub_cancel_left]

/-- The numbers without a register: two gaps, and everything past the bank. -/
theorem Reg.ofNumber_eq_none_iff (n : Nat) :
    Reg.ofNumber n = none ↔ n = 0x0E ∨ n = 0x0F ∨ (0x14 ≤ n ∧ n ≤ 0x1F) ∨ 0x30 ≤ n := by
  by_cases hn : n < 0x14
  · revert n
    decide
  · rw [Reg.ofNumber_of_ge n (by omega)]
    split
    · simp; omega
    · simp; omega

theorem regAt_chcfg (c : Nat) (hc : c < 16) : regAt (0xFF000020 + BitVec.ofNat 32 c) = some (.chcfg c) := by
  have e : (0xFF000020 : Word) + BitVec.ofNat 32 c = 0xFF000000 + BitVec.ofNat 32 (0x20 + c) := by
    rw [BitVec.ofNat_add, ← BitVec.add_assoc]
    rfl
  rw [e, regAt_regBase _ (by omega), Reg.ofNumber_chcfg c hc]

/-- An address of another region or unit names no register. -/
theorem regAt_eq_none_of_high_ne (a : Word) (h : a >>> 16 ≠ 0xFF00) : regAt a = none := by
  rw [regAt, if_neg]
  rintro ⟨hr, hu⟩
  apply h
  rw [addrRegion_eq] at hr
  rw [addrUnit_eq] at hu
  apply BitVec.eq_of_toNat_eq
  rw [BitVec.toNat_ushiftRight, Nat.shiftRight_eq_div_pow]
  show _ = 0xFF00
  omega

/-- Settles O45: the listed numbers one by one, the bank and the gaps by the arithmetic of the number. -/
theorem registerMap : Obligations.RegisterMap := by
  refine ⟨rfl, rfl, rfl, rfl, rfl, rfl, rfl, rfl, rfl, rfl, rfl, rfl, rfl, rfl, rfl, rfl, rfl, rfl, regAt_chcfg,
    fun n hn => ?_, regAt_eq_none_of_high_ne⟩
  rw [regAt_regBase n hn, Reg.ofNumber_eq_none_iff]

/-! ## What the registers read as (R22 to R41) -/

theorem bitAt_getLsbD (b : Bool) (k i : Nat) : (bitAt b k).getLsbD i = (b && decide (i = k) && decide (i < 32)) := by
  cases b
  · simp [bitAt]
  · rw [bitAt, if_pos rfl, BitVec.getLsbD_ofNat, Nat.testBit_two_pow]
    simp [eq_comm, Bool.and_comm]

/-- A flag put before the low bits of a register is `bitAt` at the next place. -/
theorem ofBool_append_setWidth {w : Nat} (b : Bool) (x : BitVec w) :
    (BitVec.ofBool b ++ x).setWidth 32 = bitAt b w ||| x.setWidth 32 := by
  apply BitVec.eq_of_getLsbD_eq
  intro i hi
  simp only [BitVec.getLsbD_setWidth, BitVec.getLsbD_append, BitVec.getLsbD_or, bitAt_getLsbD, BitVec.getLsbD_ofBool]
  rcases Nat.lt_trichotomy i w with h | rfl | h
  · simp [h, hi, h.ne]
  · simp [hi]
  · simp [hi, Nat.not_lt.mpr h.le, h.ne', Nat.sub_ne_zero_of_lt h, BitVec.getLsbD_of_ge x i h.le]

theorem ofBool_setWidth (b : Bool) : (BitVec.ofBool b).setWidth 32 = bitAt b 0 := by cases b <;> rfl

/-- `FLAGS` (R31), from bit 6 down to bit 0. -/
theorem State.flagsWord_eq (s : State) :
    s.flagsWord = (BitVec.ofBool s.protoFault ++ BitVec.ofBool s.busFault ++ BitVec.ofBool s.cfgError ++
      BitVec.ofBool s.accelBusy ++ BitVec.ofBool s.filterDone ++ BitVec.ofBool s.processingActive ++
      BitVec.ofBool s.blockReady).setWidth 32 := by
  simp only [BitVec.append_assoc, BitVec.cast_eq, ofBool_append_setWidth, ofBool_setWidth, State.flagsWord]
  ac_rfl

theorem Mode.bit_eq (m : Mode) : m.bit = decide (m = .liveStreaming) := by cases m <;> rfl

/-- `CTRL` (R32). -/
theorem State.ctrlWord_eq (s : State) :
    s.ctrlWord = (BitVec.ofBool (decide (s.mode = .liveStreaming)) ++ BitVec.ofBool s.run).setWidth 32 := by
  rw [ofBool_append_setWidth, ofBool_setWidth, ← Mode.bit_eq, BitVec.or_comm]
  rfl

/-- `SLOT` (R37). -/
theorem State.slotWord_eq (s : State) : s.slotWord = BitVec.ofNat 32 (2 * s.curSlot.val + s.rxSlot.val) := by
  have h : ∀ rx cur : Slot, bitAt (rx = 1) 0 ||| bitAt (cur = 1) 1 = BitVec.ofNat 32 (2 * cur.val + rx.val) := by decide
  exact h s.rxSlot s.curSlot

/-- A register of the bank `CHCFG` (R41). -/
theorem ChannelConfig.word_eq (c : ChannelConfig) : c.word = BitVec.ofBool c.configured ++ 0#15 ++ c.taps := by
  apply BitVec.eq_of_getLsbD_eq
  intro i hi
  simp only [ChannelConfig.word, BitVec.getLsbD_or, BitVec.getLsbD_setWidth, bitAt_getLsbD, BitVec.getLsbD_append,
    BitVec.getLsbD_ofBool, BitVec.getLsbD_zero]
  by_cases h : i < 16
  · simp [h, hi, show i ≠ 31 by omega]
  · rw [BitVec.getLsbD_of_ge c.taps i (by omega)]
    by_cases h31 : i = 31
    · subst h31; simp
    · simp [h, hi, h31]; omega

/-- Settles O46: the composed registers by the lemmas above, the plain ones by definition. -/
theorem registerLayouts : Obligations.RegisterLayouts := by
  intro s
  refine ⟨s.flagsWord_eq, s.ctrlWord_eq, s.slotWord_eq, ?phase, ?status, rfl, rfl, rfl, rfl, rfl, rfl, rfl, rfl, rfl, rfl,
    rfl, rfl, rfl, ?chcfg⟩
  case phase => simp only [State.readReg]; cases s.phase <;> rfl
  case status => simp only [State.readReg]; cases s.status <;> rfl
  case chcfg =>
    intro c hc
    have hchan : s.chan c = s.chcfg[c] := by simp [State.chan, Vector.getD, hc]
    exact ⟨by rw [State.readReg, hchan, ChannelConfig.word_eq], hchan⟩

/-! ## Bus writes (R44, R252) -/

/-- The host's turn with a write to a register is the write to that register. -/
theorem step_writeReg {s : State} {rest : List Turn} {a w : Word} {ops : List HostOp} {r : Reg} (hs : s.turns = .host :: rest)
    (ho : s.hostOps = .write a w :: ops) (hw : s.waitHold = false) (hr : regAt a = some r) :
    step s = State.writeReg { s with turns := rest, hostOps := ops } r w := by
  rw [step_host s rest _ ops hs ho hw, State.hostOp, State.busWrite, mapped_eq_false_of_regAt hr, hr]
  rfl

/-- The registers behind the write gate (R44). -/
def Reg.gated : Reg → Prop
  | .ctrl | .nch | .bsize | .iter | .firHead => True
  | _ => False

/-- The registers a host write leaves as they are (R44, R252). -/
def Reg.readOnly : Reg → Prop
  | .flags | .phase | .slot | .overrunCount | .blockCount | .satCount | .status | .res | .chcfg _ => True
  | _ => False

theorem writeReg_gate_closed (s : State) (r : Reg) (w : Word) (hr : r.gated) (h : s.run = true ∨ s.accelBusy = true) :
    s.writeReg r w = .next s := by
  have hg : s.gateOpen = false := by
    rcases h with h | h <;> simp [State.gateOpen, h]
  cases r with
  | ctrl | nch | bsize | iter | firHead => rw [State.writeReg, if_neg (by simp [hg])]
  | _ => exact hr.elim

theorem writeReg_readOnly (s : State) (r : Reg) (w : Word) (hr : r.readOnly) : s.writeReg r w = .next s := by
  cases r with
  | ctrl | nch | bsize | iter | firHead | cmd | arg0 | arg1 | arg2 | arg3 => exact hr.elim
  | _ => rfl

/-- Numbers 7 to 12 and the bank are read-only. -/
theorem ofNumber_readOnly (n : Nat) (h7 : 7 ≤ n) (h12 : n ≤ 12) : ∃ r, Reg.ofNumber n = some r ∧ r.readOnly := by
  interval_cases n <;> exact ⟨_, rfl, trivial⟩

/-- Settles O47: every register clause is `step_writeReg` at the register the address names. -/
theorem busWriteCases : Obligations.BusWriteCases := by
  intro s rest a w ops hs ho hw
  have hwrite : ∀ {r}, regAt a = some r → step s = State.writeReg { s with turns := rest, hostOps := ops } r w :=
    step_writeReg hs ho hw
  have hbus : step s = State.busWrite { s with turns := rest, hostOps := ops } a w := step_host s rest _ ops hs ho hw
  refine ⟨?memory, ?_, ?_, ?_, ?_, ?closed, ?opened, ?readOnly, ?unmapped⟩
  case memory =>
    intro ha
    refine ⟨s.mem.writeWord a w, ?_, Memory.readWord_writeWord_self .., fun k hk =>
      Memory.byteAt_writeWord_of_ne _ _ _ _ (hk 0 Nat.one_pos)⟩
    rw [hbus, State.busWrite, if_pos ha]
  case closed =>
    intro hclosed ha
    obtain ⟨r, hr, hg⟩ : ∃ r, regAt a = some r ∧ r.gated := by
      rcases ha with rfl | rfl | rfl | rfl | rfl <;> exact ⟨_, rfl, trivial⟩
    exact (hwrite hr).trans (writeReg_gate_closed _ r w hg hclosed)
  case opened =>
    intro hrun hbusy
    have hg : State.gateOpen { s with turns := rest, hostOps := ops } = true := by simp [State.gateOpen, hrun, hbusy]
    refine ⟨?mode, ?_, ?_, ?_, ?_⟩
    case mode =>
      rintro rfl
      rw [hwrite rfl, State.writeReg, if_pos hg, Mode.ofBit]
    all_goals
      rintro rfl
      rw [hwrite rfl, State.writeReg, if_pos hg]
  case readOnly =>
    intro ha
    obtain ⟨r, hr, hro⟩ : ∃ r, regAt a = some r ∧ r.readOnly := by
      obtain rfl | rfl | ⟨n, h7, h12, rfl⟩ | ⟨c, hc, rfl⟩ := ha
      · exact ⟨_, rfl, trivial⟩
      · exact ⟨_, rfl, trivial⟩
      · rw [regAt_regBase n (by omega)]
        exact ofNumber_readOnly n h7 h12
      · exact ⟨_, regAt_chcfg c hc, trivial⟩
    exact (hwrite hr).trans (writeReg_readOnly _ r w hro)
  case unmapped =>
    intro hm hr
    rw [hbus, State.busWrite, hm, hr]
    rfl
  all_goals
    rintro rfl
    exact hwrite rfl

/-! ## Reset (R56) -/

/-- Power-on is a state that hardware reset gives, so that R56's table is read once for both. -/
theorem reset_eq_hardwareReset : State.reset = State.reset.hardwareReset := rfl

theorem hardwareReset_flagsWord (s : State) : s.hardwareReset.flagsWord = 0 := by
  show State.reset.flagsWord = 0
  decide

theorem hardwareReset_transportEnable (s : State) : s.hardwareReset.transportEnable = false := rfl

theorem hardwareReset_chan (s : State) (c : Nat) : s.hardwareReset.chan c = ⟨0, false⟩ := by
  simp [State.chan, State.hardwareReset, State.reset, Vector.getD, Array.getD]

/-- Settles O49: both states are hardware resets, and the table is read off `hardwareReset`. -/
theorem resetValues : Obligations.ResetValues := by
  intro s rest hs
  refine ⟨State.hardwareReset { s with turns := rest }, step_cons s .reset rest hs, rfl, fun u hu => ?_⟩
  obtain ⟨v, rfl⟩ : ∃ v : State, u = v.hardwareReset := by
    rcases hu with rfl | rfl
    · exact ⟨_, rfl⟩
    · exact ⟨_, reset_eq_hardwareReset⟩
  refine ⟨rfl, rfl, rfl, rfl, rfl, rfl, rfl, rfl, rfl, rfl, rfl, rfl, hardwareReset_flagsWord v, rfl, rfl, rfl, rfl, rfl, rfl,
    rfl, rfl, rfl, rfl, rfl, hardwareReset_chan v, rfl, rfl, hardwareReset_transportEnable v, rfl, fun a g => ?_⟩
  rw [State.deliver, if_pos (hardwareReset_transportEnable v)]

end Sys2Proof.Machine
end

section
/-! The invariant along every run (`20_memory.md` R76, `43_orchestrator.md` R226): from a state of the invariant every turn has
a next state, and that state meets the invariant. -/

namespace Sys2Proof.Machine

/-- The outcome is a next state, and that state meets the invariant. -/
def NextInv (o : Outcome) : Prop := ∃ t : State, o = .next t ∧ t.Inv

theorem State.Inv.next {t : State} (h : t.Inv) : NextInv (.next t) := ⟨t, rfl, h⟩

/-! ## Changes that other parts of the state do not see -/

theorem State.Inv.complete {s : State} (h : s.Inv) (result : Word) : (s.complete result).Inv := { h with }

theorem State.Inv.raiseStatus {s : State} (h : s.Inv) (code : Status) : (s.raiseStatus code).Inv := by
  rw [State.raiseStatus_eq]
  exact { h with }

theorem State.Inv.withTurns {s : State} (h : s.Inv) (rest : List Turn) : State.Inv { s with turns := rest } := { h with }

/-- A completion taken away leaves nothing to wait for (I4, I5). -/
theorem State.Inv.withoutDone {s : State} (h : s.Inv) : State.Inv { s with filterDone := false } :=
  { h with doneIsDispatched := nofun, notBusyAndDone := nofun }

theorem State.Inv.finishWait {s : State} (h : s.Inv) : s.finishWait.Inv := by
  obtain ⟨-, e⟩ | ⟨-, e⟩ := s.finishWait_cases <;> rw [e]
  · exact { h.withoutDone with }
  · exact { h with }

/-! ## Jobs: `Dispatch()` and X1 (`42_fir_engine.md` R176, R190) -/

/-- A job over a legal `NCH`, with a lap to do, may be armed where no completion is pending and no live phase is cut short. -/
theorem State.Inv.arm {s : State} (h : s.Inv) (ci ai : Bool) (head laps : Word) (hnch : s.nchLegal = true)
    (hlaps : 1 ≤ laps.toNat) (hdone : s.filterDone = false) (hphase : s.run = true → s.phase = .dispatched) :
    State.Inv { s with
      jobCI := ci, jobAI := ai, cp := head, descLeft := s.nch.toNat, lapsLeft := laps, accelBusy := true } :=
  { h with
    busyIsDispatched := fun hrun _ => hphase hrun
    notBusyAndDone := fun hc => Bool.false_ne_true (hdone.symm.trans hc.2)
    jobLeft := fun _ => ⟨hnch, ((inRange_iff _ _).mp hnch).1, le_rfl, hlaps⟩ }

/-- The laps that `Dispatch()` arms a valid chain with (R176). -/
theorem chainValid_laps {s : State} {head : Word} (hv : s.chainValid head = true) :
    1 ≤ (if (s.mem.descriptor head).ai then s.iter else 1).toNat := by
  split
  · next hai => exact chainValid_iter s head hv hai
  · exact le_rfl

theorem State.Inv.dispatchJob {s : State} (h : s.Inv) (hphase : s.run = true → s.phase = .dispatched) :
    s.dispatchJob.2.Inv := by
  obtain ⟨-, e⟩ | ⟨-, hdone, hv, e⟩ | ⟨-, -, -, e⟩ := s.dispatchJob_cases <;> rw [e]
  · exact { h with }
  · exact h.arm _ _ _ _ (chainValid_nch s _ hv) (chainValid_laps hv) hdone hphase
  · exact { h with }

/-- `Dispatch()` neither reads nor writes the phase and its guard. -/
theorem dispatchJob_withPhase (s : State) (active : Bool) (p : Phase) :
    (State.dispatchJob { s with processingActive := active, phase := p }).2 =
      { s.dispatchJob.2 with processingActive := active, phase := p } := by
  have hv : State.chainValid { s with processingActive := active, phase := p } s.firHead = s.chainValid s.firHead := rfl
  simp only [State.dispatchJob, hv]
  split_ifs <;> rfl

/-- What follows the outputs of a job in flight: a descriptor fewer, a lap fewer, or no job (R190). -/
theorem State.Inv.advanceJob {s : State} (h : s.Inv) (hbusy : s.accelBusy = true) (next : Word) :
    (s.advanceJob next).Inv := by
  obtain ⟨hnch, hdesc, hle, hlaps⟩ := h.jobLeft hbusy
  obtain ⟨h2, e⟩ | ⟨-, hl, e⟩ | ⟨-, -, e⟩ := s.advanceJob_cases next <;> rw [e]
  · exact { h with jobLeft := fun _ => ⟨hnch, Nat.le_sub_one_of_lt h2, (Nat.sub_le ..).trans hle, hlaps⟩ }
  · refine { h with jobLeft := fun _ => ⟨hnch, ((inRange_iff _ _).mp hnch).1, le_rfl, ?_⟩ }
    show 1 ≤ (s.lapsLeft - 1).toNat
    bv_omega
  · exact { h with
      busyIsDispatched := nofun
      doneIsDispatched := fun hrun _ => h.busyIsDispatched hrun hbusy
      notBusyAndDone := nofun
      jobLeft := nofun }

theorem State.Inv.stepX1 {s : State} (h : s.Inv) (hbusy : s.accelBusy = true) : s.stepX1.Inv := by
  obtain ⟨hv, e⟩ | ⟨-, e⟩ := s.stepX1_cases <;> rw [e]
  · obtain ⟨-, -, -, hout⟩ := descValid_mapped _ _ hv
    exact (h.withMem _ (writeOutputs_wf _ _ h.memCanonical) (writeOutputs_inMap _ _ h.memInMap hout)).advanceJob hbusy _
  · exact { h with busyIsDispatched := nofun, notBusyAndDone := nofun, jobLeft := nofun }

/-! ## Commands -/

theorem State.Inv.tofloat {s : State} (h : s.Inv) : NextInv (execTofloat s) := by
  unfold execTofloat
  split_ifs with _ hm
  · exact (h.raiseStatus _).next
  · exact ((h.withMem _ (convertToFloat_wf _ _ _ _ _ _ h.memCanonical)
      (convertToFloat_inMap _ _ _ _ _ _ h.memInMap hm)).complete 0).next
  · exact (h.raiseStatus _).next

theorem State.Inv.tofixed {s : State} (h : s.Inv) : NextInv (execTofixed s) := by
  unfold execTofixed
  split_ifs with _ hm
  · exact (h.raiseStatus _).next
  · have hmem := h.withMem _ (convertToFixed_wf s.fxw.val _ _ _ _ (s.mem, s.satCount) h.memCanonical)
      (convertToFixed_inMap s.fxw.val _ _ _ _ (s.mem, s.satCount) h.memInMap hm)
    exact State.Inv.next { hmem with }
  · exact (h.raiseStatus _).next

theorem State.Inv.stage {s : State} (h : s.Inv) (c : Nat) : NextInv (execStage c s) := by
  unfold execStage
  split_ifs with _ _ hm
  · exact (h.raiseStatus _).next
  · exact (h.raiseStatus _).next
  · exact (h.raiseStatus _).next
  · exact ((h.withMem _ (stageWords_wf _ _ _ _ h.memCanonical)
      (stageWords_inMap _ _ _ _ h.memInMap (by simpa using hm))).complete 0).next

theorem State.Inv.capture {s : State} (h : s.Inv) (c : Nat) : NextInv (execCapture c s) := by
  unfold execCapture
  split_ifs with _ _ hm
  · exact (h.raiseStatus _).next
  · exact (h.raiseStatus _).next
  · exact (h.raiseStatus _).next
  · exact ((h.withMem _ (captureWords_wf _ _ _ _ h.memCanonical)
      (captureWords_inMap _ _ _ _ h.memInMap (by simpa using hm))).complete 0).next

/-- The operands `CONFIGURE` accepts (R166). -/
theorem configureLegal_iff (s : State) (c : Nat) :
    s.configureLegal c = true ↔ (1 ≤ s.nch.toNat ∧ s.nch.toNat ≤ Config.maxCh) ∧ c < s.nch.toNat ∧
      (1 ≤ s.arg1.toNat ∧ s.arg1.toNat ≤ Config.maxTaps) ∧ (1 ≤ s.arg2.toNat ∧ s.arg2.toNat ≤ Config.maxB) := by
  simp only [State.configureLegal, State.nchLegal, Bool.and_eq_true, inRange_iff, decide_eq_true_eq, and_assoc]

/-- A legal tap count fits the field `TAPS` of `CHCFG` (`10_state.md` R41). -/
theorem toNat_setWidth_taps {v : Word} (h : v.toNat ≤ Config.maxTaps) : (v.setWidth 16).toNat = v.toNat := by
  rw [BitVec.toNat_setWidth]
  exact Nat.mod_eq_of_lt (lt_of_le_of_lt h (by decide))

theorem State.Inv.setChan {s : State} (h : s.Inv) (hrun : s.run = false) (c : Nat) {v : Word} (h1 : 1 ≤ v.toNat)
    (hv : v.toNat ≤ Config.maxTaps) : (s.setChan c (v.setWidth 16)).Inv := by
  refine { h with tapsLegal := fun d hd => ?_, liveGeometry := fun hr => absurd (hrun.symm.trans hr) Bool.false_ne_true }
  rw [State.setChan_chan] at hd ⊢
  split
  · exact ⟨(toNat_setWidth_taps hv).symm ▸ h1, (toNat_setWidth_taps hv).symm ▸ hv⟩
  · next hne =>
    rw [if_neg hne] at hd
    exact h.tapsLegal d hd

theorem State.Inv.configure {s : State} (h : s.Inv) (c : Nat) : NextInv (execConfigure c s) := by
  unfold execConfigure
  split_ifs with hb hl _
  · exact (h.raiseStatus _).next
  · exact (h.raiseStatus _).next
  · exact (h.raiseStatus _).next
  · obtain ⟨⟨-, hnch⟩, hc, ⟨htaps, hmax⟩, -⟩ := (configureLegal_iff s c).mp (by simpa using hl)
    obtain ⟨hrun, -⟩ : s.run = false ∧ s.accelBusy = false := by simpa using hb
    have hcu : c < Config.maxCh := lt_of_lt_of_le hc hnch
    have hwords := writeWords_inMap s.mem (Region.desc.base c) (s.builtDescriptor c s.arg0 s.arg1 s.arg2).words h.memInMap
      ((mappedRange_iff _ 9).mp (Region.mappedRange_base .desc c 9 hcu le_rfl))
    have hhist := Region.mappedRange_base .hist c (s.arg1.toNat - 1) hcu (Nat.sub_le_sub_right hmax 1)
    exact (((h.setChan hrun c htaps hmax).withMem _ (zeroWords_wf _ _ _ (writeWords_wf _ _ _ h.memCanonical))
      (zeroWords_inMap _ _ _ hwords hhist)).complete 0).next

theorem State.Inv.dispatch {s : State} (h : s.Inv) : NextInv (execDispatch s) := by
  unfold execDispatch
  split
  · exact (h.raiseStatus _).next
  · next hrun =>
    have hd : s.dispatchJob.2.Inv := h.dispatchJob fun hr => absurd hr hrun
    split
    · next e => rw [e] at hd; exact (hd.complete 0).next
    · next e => rw [e] at hd; exact (hd.raiseStatus _).next

theorem State.Inv.isdone {s : State} (h : s.Inv) : NextInv (execIsdone s) := by
  unfold execIsdone
  split_ifs
  · exact (h.raiseStatus _).next
  · exact (h.withoutDone.complete 1).next
  · exact (h.complete 0).next

theorem State.Inv.waitdone {s : State} (h : s.Inv) : NextInv (execWaitdone s) := by
  unfold execWaitdone
  split_ifs
  · exact (h.raiseStatus _).next
  · exact (h.raiseStatus _).next
  · exact h.finishWait.next
  · exact State.Inv.next { h with }

/-- `CheckStart()` of live streaming checks the geometry of the run (R217, L1 and L2). -/
theorem checkStart_geometry {s : State} (hm : s.mode = .liveStreaming) (hc : s.checkStart = true) :
    s.nchLegal = true ∧ s.bsizeLegal = true ∧ ∀ c, c < s.nch.toNat → (s.chan c).configured = true := by
  unfold State.checkStart at hc
  rw [hm] at hc
  simp only [Bool.and_eq_true, allBelow_iff] at hc
  obtain ⟨⟨⟨⟨⟨hnch, hbsize⟩, hconf⟩, -⟩, -⟩, -⟩ := hc
  exact ⟨hnch, hbsize, hconf⟩

theorem State.Inv.start {s : State} (h : s.Inv) : NextInv (execStart s) := by
  unfold execStart
  split_ifs with hb hc
  · exact (h.raiseStatus _).next
  · exact (h.raiseStatus _).next
  · obtain ⟨-, hbusy, hdone⟩ : (s.run = false ∧ s.phase = .idle) ∧ s.accelBusy = false ∧ s.filterDone = false := by
      simpa [and_assoc] using hb
    obtain ⟨-, hcheck⟩ : s.cfgError = false ∧ s.checkStart = true := by simpa using hc
    split
    · next hm =>
      have hrunning : State.Inv { s with run := true, blockReady := false, processingActive := true, phase := .dispatched } :=
        { h with
          guardIsPhase := ⟨nofun, fun _ => rfl⟩
          stoppedIsIdle := nofun
          busyIsDispatched := fun _ _ => rfl
          doneIsDispatched := fun _ _ => rfl
          liveGeometry := fun _ hl => absurd (hm.symm.trans hl) nofun
          offlineIsDispatched := fun _ _ => rfl }
      have hd := hrunning.dispatchJob fun _ => rfl
      rw [dispatchJob_withPhase { s with run := true, blockReady := false }] at hd
      exact (hd.complete 0).next
    · next hm =>
      exact State.Inv.next
        { h with
          stoppedIsIdle := nofun
          busyIsDispatched := fun _ hb => absurd (hbusy.symm.trans hb) Bool.false_ne_true
          doneIsDispatched := fun _ hd => absurd (hdone.symm.trans hd) Bool.false_ne_true
          liveGeometry := fun _ _ => checkStart_geometry hm hcheck
          offlineIsDispatched := fun _ ho => absurd (hm.symm.trans ho) nofun }

theorem State.Inv.stop {s : State} (h : s.Inv) : NextInv (execStop s) := by
  unfold execStop
  split_ifs with hb
  · exact (h.raiseStatus _).next
  · obtain ⟨-, hidle, -⟩ : s.run = true ∧ s.phase = .idle ∧ s.accelBusy = false := by simpa [and_assoc] using hb
    exact State.Inv.next
      { h with
        stoppedIsIdle := fun _ => hidle
        busyIsDispatched := nofun
        doneIsDispatched := nofun
        liveGeometry := nofun
        offlineIsDispatched := nofun }

/-- Every command has a next state, within the invariant. -/
theorem State.Inv.exec {s : State} (h : s.Inv) (i : Instr) : NextInv (exec i s) := by
  cases i with
  | nop => exact (h.complete 0).next
  | tofloat => exact h.tofloat
  | tofixed => exact h.tofixed
  | stage c => exact h.stage c
  | capture c => exact h.capture c
  | configure c => exact h.configure c
  | dispatch => exact h.dispatch
  | isdone => exact h.isdone
  | waitdone => exact h.waitdone
  | start => exact h.start
  | stop => exact h.stop

/-! ## The host's turn -/

/-- Behind an open write gate (R44) nothing runs and no job is in flight, so mode and geometry bind nobody. -/
theorem State.Inv.withGeometry {s : State} (h : s.Inv) (hg : s.gateOpen = true) (mode : Mode) (nch bsize : Word) :
    State.Inv { s with mode := mode, nch := nch, bsize := bsize } := by
  simp only [State.gateOpen, Bool.and_eq_true, Bool.not_eq_true'] at hg
  obtain ⟨hrun, hbusy⟩ := hg
  exact { h with
    jobLeft := fun hb => absurd (hbusy.symm.trans hb) Bool.false_ne_true
    liveGeometry := fun hr => absurd (hrun.symm.trans hr) Bool.false_ne_true
    offlineIsDispatched := fun hr => absurd (hrun.symm.trans hr) Bool.false_ne_true }

theorem State.Inv.runCommand {s : State} (h : s.Inv) (w : Word) : NextInv (runCommand w s) := by
  unfold Machine.runCommand
  split
  · exact (h.raiseStatus _).next
  · exact h.exec _

theorem State.Inv.writeReg {s : State} (h : s.Inv) (r : Reg) (w : Word) : NextInv (s.writeReg r w) := by
  cases r with
  | cmd => exact h.runCommand w
  | arg0 | arg1 | arg2 | arg3 => exact State.Inv.next { h with }
  | ctrl | nch | bsize | iter | firHead =>
    refine ⟨_, rfl, ?_⟩
    split
    · next hg => exact { h.withGeometry hg _ _ _ with }
    · exact h
  | _ => exact h.next

theorem State.Inv.busRead {s : State} (h : s.Inv) (a : Word) : (s.busRead a).Inv := by
  unfold State.busRead
  split
  · exact { h with }
  · split <;> exact { h with }

theorem State.Inv.busWrite {s : State} (h : s.Inv) (a w : Word) : NextInv (s.busWrite a w) := by
  unfold State.busWrite
  split
  · next ha => exact (h.withMem _ (Memory.wf_writeWord _ a w h.memCanonical) (Memory.inMap_writeWord _ a w h.memInMap ha)).next
  · split
    · exact h.writeReg _ w
    · exact State.Inv.next { h with }

theorem State.Inv.hostTurn {s : State} (h : s.Inv) : NextInv s.hostTurn := by
  unfold State.hostTurn
  split
  · refine ⟨_, rfl, ?_⟩
    split
    · exact h.finishWait
    · exact h
  · split
    · exact h.next
    · next op ops _ =>
      have h' : State.Inv { s with hostOps := ops } := { h with }
      cases op with
      | read a => exact (h'.busRead a).next
      | write a w => exact h'.busWrite a w

/-! ## The transport's turn -/

theorem State.Inv.deliver {s : State} (h : s.Inv) (slot group : Nat) : (s.deliver slot group).Inv := by
  obtain ⟨-, e⟩ | ⟨-, -, e⟩ | ⟨-, -, -, e⟩ := s.deliver_cases slot group <;> rw [e] <;> exact { h with }

theorem State.Inv.transportOp {s : State} (h : s.Inv) (op : TransportOp) : (s.transportOp op).Inv := by
  cases op with
  | write slot offset w =>
    have hmem := h.withMem _ (Memory.wf_writeWord _ _ w h.memCanonical)
      (Memory.inMap_writeWord _ _ w h.memInMap (slotWord_mapped .rx rfl rfl slot offset))
    exact { hmem with }
  | read slot offset => exact { h with }
  | deliver slot group =>
    rw [State.transportOp]
    split
    · exact { h.deliver slot group with }
    · exact h.deliver slot group

theorem State.Inv.transportTurn {s : State} (h : s.Inv) : s.transportTurn.Inv := by
  unfold State.transportTurn
  split
  · exact h
  · next op ops _ => exact State.Inv.transportOp (s := { s with transportOps := ops }) { h with } op

/-! ## The orchestrator's turn -/

/-- What holds in the phases in which a unit works on a block: no job, and the geometry `START` checked (R217, R226). -/
structure State.BlockCycle (s : State) : Prop where
  /-- I1. -/
  active : s.processingActive = true
  /-- I2. -/
  running : s.run = true
  /-- A run in offline validation knows no other phase than `dispatched`. -/
  streaming : s.mode = .liveStreaming
  /-- I3. -/
  noJob : s.accelBusy = false
  /-- I4. -/
  noDone : s.filterDone = false
  /-- R217, L1. -/
  channels : s.nch.toNat ≤ Config.maxCh
  /-- R217, L1. -/
  block : s.bsize.toNat ≤ Config.maxB
  /-- R217, L2, and the tap counts `CONFIGURE` accepts (`42_fir_engine.md` R166). -/
  taps : ∀ c, c < s.nch.toNat → s.histLen c ≤ Config.maxTaps - 1

theorem State.Inv.blockCycle {s : State} (h : s.Inv) (hi : s.phase ≠ .idle) (hd : s.phase ≠ .dispatched) : s.BlockCycle := by
  have hrun : s.run = true := by
    by_contra hr
    exact hi (h.stoppedIsIdle (by simpa using hr))
  have hmode : s.mode = .liveStreaming := by
    cases hm : s.mode with
    | liveStreaming => rfl
    | offlineValidation => exact absurd (h.offlineIsDispatched hrun hm) hd
  obtain ⟨hnch, hbsize, hconf⟩ := h.liveGeometry hrun hmode
  exact
    { active := h.guardIsPhase.mpr hi
      running := hrun
      streaming := hmode
      noJob := by by_contra hb; exact hd (h.busyIsDispatched hrun (by simpa using hb))
      noDone := by by_contra hb; exact hd (h.doneIsDispatched hrun (by simpa using hb))
      channels := ((inRange_iff _ _).mp hnch).2
      block := ((inRange_iff _ _).mp hbsize).2
      taps := fun c hc => Nat.sub_le_sub_right (h.tapsLegal c (hconf c hc)).2 1 }

/-- From one working phase of a live cycle to the next. -/
theorem State.Inv.toPhase {s : State} (h : s.Inv) (hc : s.BlockCycle) (p : Phase) (hp : p ≠ .idle) :
    State.Inv { s with phase := p } :=
  { h with
    guardIsPhase := ⟨fun _ => hp, fun _ => hc.active⟩
    stoppedIsIdle := fun hr => absurd (hc.running.symm.trans hr) nofun
    busyIsDispatched := fun _ hb => absurd (hc.noJob.symm.trans hb) nofun
    doneIsDispatched := fun _ hd => absurd (hc.noDone.symm.trans hd) nofun
    offlineIsDispatched := fun _ hm => absurd (hc.streaming.symm.trans hm) nofun }

/-- The end of a cycle in live streaming. -/
theorem State.Inv.toIdle {s : State} (h : s.Inv) (hc : s.BlockCycle) :
    State.Inv { s with processingActive := false, phase := .idle } :=
  { h with
    guardIsPhase := ⟨nofun, fun hp => absurd rfl hp⟩
    stoppedIsIdle := fun _ => rfl
    busyIsDispatched := fun _ hb => absurd (hc.noJob.symm.trans hb) nofun
    doneIsDispatched := fun _ hd => absurd (hc.noDone.symm.trans hd) nofun
    offlineIsDispatched := fun _ hm => absurd (hc.streaming.symm.trans hm) nofun }

/-- A sample of an interleaved block of legal size is in its slot (`40_conversion.md` R138). -/
theorem mapped_interleaved (r : Region) (hu : r.units = 2) (hr : r.capacity = 65536) (slot : Slot) {n b : Word} {c i : Nat}
    (hn : n.toNat ≤ Config.maxCh) (hb : b.toNat ≤ Config.maxB) (hc : c < n.toNat) (hi : i < b.toNat) :
    mapped (channelStride (unitStride (r.base slot.val) c) n i) = true := by
  rw [channelStride_eq]
  refine r.mapped_base _ _ (by rw [hu]; exact slot.isLt) ?_
  rw [hr]
  exact interleaved_lt i c _ _ hi hc hb hn

theorem State.BlockCycle.toFloatMapped {s : State} (hc : s.BlockCycle) {c : Nat} (hlt : c < s.nch.toNat) :
    toFloatMapped (Region.csb.base c) (s.rxChannel c) s.nch s.bsize.toNat = true := by
  simp only [Machine.toFloatMapped, allBelow_iff, Bool.and_eq_true]
  exact fun i hi => ⟨mapped_interleaved .rx rfl rfl _ hc.channels hc.block hlt hi,
    Region.mapped_base .csb c i (hlt.trans_le hc.channels) (hi.trans_le hc.block)⟩

theorem State.BlockCycle.toFixedMapped {s : State} (hc : s.BlockCycle) {c : Nat} (hlt : c < s.nch.toNat) :
    toFixedMapped (s.txChannel c) (Region.out.base c) s.nch s.bsize.toNat = true := by
  simp only [Machine.toFixedMapped, allBelow_iff, Bool.and_eq_true]
  exact fun i hi => ⟨mapped_interleaved .tx rfl rfl _ hc.channels hc.block hlt hi,
    Region.mapped_base .out c i (hlt.trans_le hc.channels) (hi.trans_le hc.block)⟩

theorem State.BlockCycle.stagerMapped {s : State} (hc : s.BlockCycle) {c : Nat} (hlt : c < s.nch.toNat) :
    stagerMapped c (s.histLen c) s.bsize.toNat = true :=
  stagerMapped_of_legal c _ _ (hlt.trans_le hc.channels) (hc.taps c hlt) hc.block

/-- A loop over the channels whose every pass keeps the memory's form and stays in the map. -/
theorem State.Inv.withChannels {s : State} (h : s.Inv) (f : Nat → Memory → Memory)
    (hwf : ∀ c m, m.wf = true → (f c m).wf = true) (hmap : ∀ c m, c < s.nch.toNat → m.inMap → (f c m).inMap) :
    State.Inv { s with mem := iterUp s.nch.toNat f s.mem } :=
  h.withMem _ (iterUp_keeps (fun m => m.wf = true) _ f s.mem h.memCanonical fun c m _ => hwf c m)
    (iterUp_keeps Memory.inMap _ f s.mem h.memInMap hmap)

/-- When S1 is enabled (R218). -/
theorem orchEnabled_s1 {s : State} (he : s.orchEnabled = some .s1) :
    s.phase = .idle ∧ s.run = true ∧ s.mode = .liveStreaming := by
  have hp : s.phase = .idle := orchEnabled_phase s _ he
  simp only [State.orchEnabled, hp, Option.ite_none_right_eq_some, Bool.and_eq_true, Mode.bit_eq, decide_eq_true_eq] at he
  obtain ⟨⟨⟨hrun, hmode⟩, -⟩, -⟩ := he
  exact ⟨hp, hrun, hmode⟩

/-- When S4 is enabled (R218). -/
theorem orchEnabled_s4 {s : State} (he : s.orchEnabled = some .s4) :
    s.phase = .dispatched ∧ s.filterDone = true ∧ s.mode = .liveStreaming := by
  have hp : s.phase = .dispatched := orchEnabled_phase s _ he
  simp only [State.orchEnabled, hp, Option.ite_none_right_eq_some] at he
  obtain ⟨hdone, he⟩ := he
  cases hm : s.mode with
  | liveStreaming => exact ⟨hp, hdone, rfl⟩
  | offlineValidation => rw [hm] at he; cases he

theorem State.Inv.stepS1 {s : State} (h : s.Inv) (he : s.orchEnabled = some .s1) : s.stepS1.Inv := by
  obtain ⟨hp, hrun, hmode⟩ := orchEnabled_s1 he
  exact { h with
    guardIsPhase := ⟨nofun, fun _ => rfl⟩
    stoppedIsIdle := fun hr => absurd (hrun.symm.trans hr) nofun
    busyIsDispatched := fun _ hb => absurd (hp.symm.trans (h.busyIsDispatched hrun hb)) nofun
    doneIsDispatched := fun _ hd => absurd (hp.symm.trans (h.doneIsDispatched hrun hd)) nofun
    offlineIsDispatched := fun _ hm => absurd (hmode.symm.trans hm) nofun }

theorem State.Inv.stepS2 {s : State} (h : s.Inv) (hc : s.BlockCycle) : NextInv s.stepS2 := by
  unfold State.stepS2
  rw [if_pos ((allBelow_iff _ _).mpr fun c hlt => hc.toFloatMapped hlt)]
  exact ((h.toPhase hc .staging nofun).withChannels
    (fun c m => convertToFloat s.fxw.val (Region.csb.base c) (s.rxChannel c) s.nch s.bsize.toNat m)
    (fun c m => convertToFloat_wf _ _ _ _ _ m)
    (fun c m hlt hm => convertToFloat_inMap _ _ _ _ _ m hm (hc.toFloatMapped hlt))).next

theorem State.Inv.stageAll {s : State} (h : s.Inv)
    (hm : ∀ c, c < s.nch.toNat → stagerMapped c (s.histLen c) s.bsize.toNat = true) : s.stageAll.Inv :=
  h.withChannels _ (fun c m => stageWords_wf c _ _ m) fun c m hlt hi => stageWords_inMap c _ _ m hi (hm c hlt)

theorem State.Inv.captureAll {s : State} (h : s.Inv)
    (hm : ∀ c, c < s.nch.toNat → stagerMapped c (s.histLen c) s.bsize.toNat = true) : s.captureAll.Inv :=
  h.withChannels _ (fun c m => captureWords_wf c _ _ m) fun c m hlt hi => captureWords_inMap c _ _ m hi (hm c hlt)

theorem State.Inv.stepS3 {s : State} (h : s.Inv) (hc : s.BlockCycle) : NextInv s.stepS3 := by
  have hm := fun c (hlt : c < s.nch.toNat) => hc.stagerMapped hlt
  have hstaged : State.Inv { s.stageAll with phase := .dispatched } := (h.toPhase hc .dispatched nofun).stageAll hm
  unfold State.stepS3
  rw [if_pos ((allBelow_iff _ _).mpr hm)]
  obtain ⟨hover, -⟩ | ⟨-, hdone, hv, e⟩ | ⟨-, -, -, e⟩ := s.stageAll.dispatchJob_cases
  · simp [hc.noJob, hc.noDone] at hover
  · rw [e]
    have harmed := hstaged.arm (s.stageAll.mem.descriptor s.firHead).ci (s.stageAll.mem.descriptor s.firHead).ai s.firHead _
      (chainValid_nch s.stageAll _ hv) (chainValid_laps hv) hdone fun _ => rfl
    exact (harmed.captureAll hm).next
  · rw [e]
    exact State.Inv.next { hstaged with }

theorem State.Inv.stepS5 {s : State} (h : s.Inv) (hc : s.BlockCycle) : NextInv s.stepS5 := by
  unfold State.stepS5
  rw [if_pos ((allBelow_iff _ _).mpr fun c hlt => hc.toFixedMapped hlt)]
  have hmem := iterUp_keeps (fun p : Memory × Word => p.1.wf = true ∧ p.1.inMap) s.nch.toNat
    (fun c p => convertToFixed s.fxw.val (s.txChannel c) (Region.out.base c) s.nch s.bsize.toNat p) (s.mem, s.satCount)
    ⟨h.memCanonical, h.memInMap⟩ fun c p hlt hp =>
      ⟨convertToFixed_wf _ _ _ _ _ p hp.1, convertToFixed_inMap _ _ _ _ _ p hp.2 (hc.toFixedMapped hlt)⟩
  exact State.Inv.next { (h.toIdle hc).withMem _ hmem.1 hmem.2 with }

theorem State.Inv.stepS4 {s : State} (h : s.Inv) (he : s.orchEnabled = some .s4) : s.stepS4.Inv := by
  obtain ⟨hp, hdone, hmode⟩ := orchEnabled_s4 he
  have hi : s.phase ≠ .idle := by rw [hp]; nofun
  exact { h with
    guardIsPhase := ⟨nofun, fun _ => h.guardIsPhase.mpr hi⟩
    stoppedIsIdle := fun hr => absurd (h.stoppedIsIdle hr) hi
    busyIsDispatched := fun _ hb => absurd ⟨hb, hdone⟩ h.notBusyAndDone
    doneIsDispatched := nofun
    notBusyAndDone := nofun
    offlineIsDispatched := fun _ hm => absurd (hmode.symm.trans hm) nofun }

/-- S4V (R225) stops the run. -/
theorem State.Inv.stepS4V {s : State} (h : s.Inv) : s.stepS4V.Inv :=
  { h with
    guardIsPhase := ⟨nofun, fun hp => absurd rfl hp⟩
    stoppedIsIdle := fun _ => rfl
    busyIsDispatched := nofun
    doneIsDispatched := nofun
    notBusyAndDone := nofun
    liveGeometry := nofun
    offlineIsDispatched := nofun }

theorem State.Inv.stepOrch {s : State} (h : s.Inv) : NextInv s.stepOrch := by
  unfold State.stepOrch
  cases he : s.orchEnabled with
  | none => exact h.next
  | some o =>
    cases o with
    | s1 => exact (h.stepS1 he).next
    | s2 =>
      have hp : s.phase = .converting := orchEnabled_phase s _ he
      exact h.stepS2 (h.blockCycle (by simp [hp]) (by simp [hp]))
    | s3 =>
      have hp : s.phase = .staging := orchEnabled_phase s _ he
      exact h.stepS3 (h.blockCycle (by simp [hp]) (by simp [hp]))
    | s4 => exact (h.stepS4 he).next
    | s5 =>
      have hp : s.phase = .emitting := orchEnabled_phase s _ he
      exact h.stepS5 (h.blockCycle (by simp [hp]) (by simp [hp]))
    | s4v => exact h.stepS4V.next

/-! ## Every turn, every run -/

/-- Hardware reset (`70_reset_and_hazards.md` R310) leaves memory as it was and nothing running. -/
theorem State.Inv.hardwareReset {s : State} (h : s.Inv) : s.hardwareReset.Inv where
  memCanonical := h.memCanonical
  memInMap := h.memInMap
  guardIsPhase := ⟨nofun, fun hp => absurd rfl hp⟩
  stoppedIsIdle := fun _ => rfl
  busyIsDispatched := nofun
  doneIsDispatched := nofun
  notBusyAndDone := nofun
  jobLeft := nofun
  tapsLegal := fun c hc => by rw [hardwareReset_chan] at hc; cases hc
  liveGeometry := nofun
  offlineIsDispatched := nofun

theorem State.Inv.takeTurn {s : State} (h : s.Inv) (turn : Turn) : NextInv (s.takeTurn turn) := by
  cases turn with
  | host => exact h.hostTurn
  | transport => exact h.transportTurn.next
  | orch => exact h.stepOrch
  | accel =>
    refine ⟨_, rfl, ?_⟩
    split
    · next hb => exact h.stepX1 hb
    · exact h
  | reset => exact h.hardwareReset.next

/-- From a state of the invariant there is a next state, and it meets the invariant. -/
theorem step_nextInv {s : State} (h : s.Inv) : NextInv (step s) := by
  cases hs : s.turns with
  | nil => rw [step_nil s hs]; exact h.next
  | cons turn rest => rw [step_cons s turn rest hs]; exact (h.withTurns rest).takeTurn turn

/-- Settles O57, by induction on the number of steps. -/
theorem runsNeverStop : Obligations.RunsNeverStop := by
  intro n
  induction n with
  | zero => exact fun s h => ⟨s, rfl, h⟩
  | succ n ih =>
    intro s h
    obtain ⟨t, hst, ht⟩ := step_nextInv h
    rw [core_run_succ n s t hst]
    exact ih t ht

end Sys2Proof.Machine
end

section
/-! The address map (`20_memory.md` R70, R71, R77) and the receive slot under the transport (R87, `70_reset_and_hazards.md`
R322). -/

namespace Sys2Proof.Machine

/-! ## The address map -/

/-- A constructor of R77: the region's first address, plus the unit's. -/
theorem Region.base_eq_add (r : Region) (u : Nat) :
    r.base u = BitVec.ofNat 32 (r.code * 0x1000000) + BitVec.ofNat 32 (u * 0x10000) :=
  BitVec.ofNat_add _ _

theorem Region.ofCode_eq_some_iff (n : Nat) (r : Region) : Region.ofCode n = some r ↔ n = r.code := by
  constructor
  · intro h
    unfold Region.ofCode at h
    split at h <;> cases h <;> rfl
  · rintro rfl
    exact r.ofCode_code

/-- An address is mapped when its region is listed, its unit exists and its offset is within the capacity (R71). -/
theorem mapped_iff (a : Word) :
    mapped a = true ↔ ∃ r : Region, addrRegion a = r.code ∧ addrUnit a < r.units ∧ addrOffset a < r.capacity := by
  constructor
  · intro h
    unfold mapped at h
    split at h
    · cases h
    · next r hr =>
      simp only [Bool.and_eq_true, decide_eq_true_eq] at h
      exact ⟨r, (Region.ofCode_eq_some_iff _ r).mp hr, h⟩
  · rintro ⟨r, hr, hu, ho⟩
    rw [mapped_eq a r ((Region.ofCode_eq_some_iff _ r).mpr hr), decide_eq_true hu, decide_eq_true ho]
    rfl

/-- The three fields of an address put together from them (R70). -/
theorem address_fields {region unit offset : Nat} (hr : region < 256) (hu : unit < 256) (ho : offset < 65536) :
    addrRegion (BitVec.ofNat 32 (region * 2 ^ 24 + unit * 2 ^ 16 + offset)) = region ∧
      addrUnit (BitVec.ofNat 32 (region * 2 ^ 24 + unit * 2 ^ 16 + offset)) = unit ∧
      addrOffset (BitVec.ofNat 32 (region * 2 ^ 24 + unit * 2 ^ 16 + offset)) = offset := by
  rw [addrRegion_eq, addrUnit_eq, addrOffset_eq, BitVec.toNat_ofNat]
  omega

/-- R71, line by line. -/
theorem exists_region_iff (region unit offset : Nat) (ho : offset < 65536) :
    (∃ r : Region, region = r.code ∧ unit < r.units ∧ offset < r.capacity) ↔
      ((region = 1 ∨ region = 2) ∧ unit < 2) ∨ (region = 3 ∧ unit < 16 ∧ offset < 4096) ∨
      (region = 4 ∧ unit < 16 ∧ offset < 8191) ∨ (region = 5 ∧ unit < 16 ∧ offset < 4095) ∨
      (region = 6 ∧ unit < 16 ∧ offset < 4096) ∨ (region = 7 ∧ unit < 16 ∧ offset < 4096) ∨
      (region = 8 ∧ unit < 16 ∧ offset < 9) := by
  constructor
  · rintro ⟨r, hr, hu, hc⟩
    cases r <;> simp only [Region.code, Region.units, Region.capacity, Config.maxCh, Config.maxB, Config.maxTaps] at hr hu hc <;>
      omega
  · rintro (⟨rfl | rfl, hu⟩ | ⟨rfl, hu, hc⟩ | ⟨rfl, hu, hc⟩ | ⟨rfl, hu, hc⟩ | ⟨rfl, hu, hc⟩ | ⟨rfl, hu, hc⟩ | ⟨rfl, hu, hc⟩)
    · exact ⟨.rx, rfl, hu, ho⟩
    · exact ⟨.tx, rfl, hu, ho⟩
    · exact ⟨.csb, rfl, hu, hc⟩
    · exact ⟨.win, rfl, hu, hc⟩
    · exact ⟨.hist, rfl, hu, hc⟩
    · exact ⟨.out, rfl, hu, hc⟩
    · exact ⟨.coef, rfl, hu, hc⟩
    · exact ⟨.desc, rfl, hu, hc⟩

/-- Settles O48: an address is read by its three fields, and R71 then line by line. -/
theorem mappedIsTheAddressMap : Obligations.MappedIsTheAddressMap := by
  refine ⟨fun u => ⟨Region.base_eq_add .rx u, Region.base_eq_add .tx u, Region.base_eq_add .csb u, Region.base_eq_add .win u,
    Region.base_eq_add .hist u, Region.base_eq_add .out u, Region.base_eq_add .coef u, Region.base_eq_add .desc u,
    BitVec.ofNat_add _ _⟩, fun a i => rfl, fun region unit offset hr hu ho => ?_⟩
  obtain ⟨er, eu, eo⟩ := address_fields hr hu ho
  rw [mapped_iff, er, eu, eo, exists_region_iff region unit offset ho]

/-! ## The receive slot that S2 reads (R322) -/

theorem deliver_mem (s : State) (slot group : Nat) : (s.deliver slot group).mem = s.mem := by
  obtain ⟨-, e⟩ | ⟨-, -, e⟩ | ⟨-, -, -, e⟩ := s.deliver_cases slot group <;> rw [e]

/-- Words of different receive slots are different words. -/
theorem rxWord_ne {slot slot' : Slot} (h : slot ≠ slot') (o : BitVec 16) {i : Nat} (hi : i < 65536) :
    Region.rx.base slot.val + o.setWidth 32 ≠ unitStride (Region.rx.base slot'.val) i := by
  rw [slotWord_eq]
  exact Region.base_ne_unit _ _ _ _ _ _ (Fin.val_ne_of_ne h) (slot.isLt.trans (by decide)) (slot'.isLt.trans (by decide))
    o.isLt hi

/-- A transport step writes memory only as `TWR`, so what is read outside the slot it may fill stays. -/
theorem transportOp_readWord {s : State} {op : TransportOp} (hop : op.keepsContract s) {slot : Slot} (hs : slot ≠ s.fillSlot)
    {i : Nat} (hi : i < 65536) :
    (s.transportOp op).mem.readWord (unitStride (Region.rx.base slot.val) i) =
      s.mem.readWord (unitStride (Region.rx.base slot.val) i) := by
  cases op with
  | write target offset w =>
    obtain ⟨-, rfl, -⟩ := hop
    exact Memory.readWord_writeWord_of_ne _ _ _ _ (rxWord_ne hs.symm offset hi)
  | read target offset => rfl
  | deliver target group =>
    have hmem : (s.transportOp (.deliver target group)).mem = s.mem := by
      rw [State.transportOp]
      split <;> exact deliver_mem s target group
    rw [hmem]

/-- Settles O60: a cycle without a delivery keeps its slot apart from the one being filled, the only one that a
contract-keeping transport writes. -/
theorem transportLeavesTheSlotBeingReadAlone : Obligations.TransportLeavesTheSlotBeingReadAlone := by
  intro s t rest hinv hapart hbehaves hs hphase _ hready hst o ho
  cases hops : s.transportOps with
  | nil =>
    rw [step_cons s _ rest hs] at hst
    simp only [State.takeTurn, State.transportTurn, hops] at hst
    cases hst
    rfl
  | cons op ops =>
    have hkeeps : op.keepsContract s := hbehaves rest op ops hs hops
    have hactive : s.processingActive = true := hinv.guardIsPhase.mpr (by rw [hphase]; nofun)
    have hne : s.curSlot ≠ s.fillSlot := hapart.current hkeeps.1 hactive hready
    rw [step_transport s rest op ops hs hops] at hst
    cases hst
    exact transportOp_readWord (s := { s with turns := rest, transportOps := ops }) hkeeps hne ho

end Sys2Proof.Machine
end

section
/-! The encoding of commands (`30_encoding.md` R100 to R102): decoding and encoding are inverse, and which words are illegal. -/

namespace Sys2Proof

/-! ## The opcode map (R101) -/

/-- What the row of an operation code says of its command: its code, its channel (`CH` in format `C`, 0 in format `N`), and
that the channel fits `CH` (R100). -/
def CommandFormat.Describes (opc ch : BitVec 8) : CommandFormat → Prop
  | .n i => i.opc = opc.toNat ∧ i.channel = 0 ∧ i.wellFormed = true
  | .c i => i.opc = opc.toNat ∧ i.channel = ch.toNat ∧ i.wellFormed = true

theorem opcodeRow_describes {opc ch : BitVec 8} {row : CommandFormat} (h : opcodeRow opc ch = some row) :
    row.Describes opc ch := by
  have fits : Instr.channelFits ch.toNat = true := decide_eq_true ch.isLt
  unfold opcodeRow at h
  split at h
  case h_12 => cases h
  all_goals next hopc => cases h; simp [CommandFormat.Describes, Instr.opc, Instr.channel, Instr.wellFormed, fits, hopc]

/-- The row of a command's own operation code is the command's. -/
theorem opcodeRow_opc_channel (i : Instr) (h : i.wellFormed = true) :
    opcodeRow (BitVec.ofNat 8 i.opc) (BitVec.ofNat 8 i.channel) = some (.c i) ∨
      opcodeRow (BitVec.ofNat 8 i.opc) (BitVec.ofNat 8 i.channel) = some (.n i) ∧ i.channel = 0 := by
  cases i with
  | stage c | capture c | configure c =>
    have hc : (BitVec.ofNat 8 c).toNat = c := Nat.mod_eq_of_lt (of_decide_eq_true h)
    left
    simp [opcodeRow, Instr.opc, Instr.channel, hc]
  | _ => exact .inr ⟨rfl, rfl⟩

theorem opcodeRow_eq_none_iff (opc ch : BitVec 8) :
    opcodeRow opc ch = none ↔
      opc.toNat ∉ [0x00, 0x10, 0x11, 0x20, 0x21, 0x30, 0x31, 0x32, 0x33, 0x40, 0x41] := by
  unfold opcodeRow
  split <;> simp_all

theorem opcodeRow_formatC_iff (opc ch : BitVec 8) :
    (∃ i, opcodeRow opc ch = some (.c i)) ↔ opc.toNat ∈ [0x20, 0x21, 0x30] := by
  unfold opcodeRow
  split <;> simp_all

/-! ## What the decoder answers (R102) -/

/-- The legal words. -/
theorem decode_eq_ok_iff (w : Word) (i : Instr) :
    decode w = .ok i ↔ fieldZero w = 0 ∧
      (opcodeRow (fieldOpc w) (fieldCh w) = some (.c i) ∨
        opcodeRow (fieldOpc w) (fieldCh w) = some (.n i) ∧ fieldCh w = 0) := by
  unfold decode
  rcases opcodeRow (fieldOpc w) (fieldCh w) with _ | j | j
  case none => simp
  case some.n => simp only; split_ifs <;> simp_all
  case some.c => simp only; split_ifs <;> simp_all

/-- The three kinds of illegal words. -/
theorem decode_error_iff (w : Word) :
    (∃ e, decode w = .error e) ↔
      opcodeRow (fieldOpc w) (fieldCh w) = none ∨ fieldZero w ≠ 0 ∨
        (¬ ∃ i, opcodeRow (fieldOpc w) (fieldCh w) = some (.c i)) ∧ fieldCh w ≠ 0 := by
  have hok : (∃ e, decode w = .error e) ↔ ¬ ∃ i, decode w = .ok i := by cases decode w <;> simp
  rw [hok]
  simp only [decode_eq_ok_iff]
  rcases opcodeRow (fieldOpc w) (fieldCh w) with _ | j | j
  case none => simp
  case some.n => simp; tauto
  case some.c => simp

/-! ## The round trips -/

/-- Settles O2: the fields of an encoding name the command's own row. -/
theorem decodeReadsBackEncode : Obligations.DecodeReadsBackEncode := by
  intro i hwf
  rw [decode_eq_ok_iff, fieldOpc_encode, fieldCh_encode, fieldZero_encode]
  rcases opcodeRow_opc_channel i hwf with hrow | ⟨hrow, hch⟩
  · exact ⟨rfl, .inl hrow⟩
  · exact ⟨rfl, .inr ⟨hrow, congrArg (BitVec.ofNat 8) hch⟩⟩

/-- A word is its command's encoding when its fields are the command's. -/
theorem encode_eq_of_fields {w : Word} {i : Instr} (hopc : i.opc = (fieldOpc w).toNat) (hch : i.channel = (fieldCh w).toNat)
    (hz : fieldZero w = 0) : encode i = w := by
  apply BitVec.eq_of_toNat_eq
  have hopc_lt := (fieldOpc w).isLt
  have hch_lt := (fieldCh w).isLt
  rw [encode_toNat, word_of_fields w, hz, hopc, hch, Nat.mod_eq_of_lt hopc_lt, Nat.mod_eq_of_lt hch_lt]
  exact (Nat.add_zero _).symm

/-- Settles O3: the row that decoded the word gives back its fields. -/
theorem legalWordsAreEncodings : Obligations.LegalWordsAreEncodings := by
  intro w i h
  obtain ⟨hz, hrow | ⟨hrow, hch0⟩⟩ := (decode_eq_ok_iff w i).mp h
  · obtain ⟨hopc, hch, hwf⟩ := opcodeRow_describes hrow
    exact ⟨encode_eq_of_fields hopc hch hz, hwf⟩
  · obtain ⟨hopc, hch, hwf⟩ := opcodeRow_describes hrow
    exact ⟨encode_eq_of_fields hopc (by rw [hch, hch0]; rfl) hz, hwf⟩

/-- Settles O1: each word is the encoding of its command. -/
theorem listedWordsDecode : Obligations.ListedWordsDecode :=
  ⟨decodeReadsBackEncode .nop rfl, decodeReadsBackEncode .tofloat rfl, decodeReadsBackEncode .tofixed rfl,
    decodeReadsBackEncode (.stage 5) rfl, decodeReadsBackEncode (.capture 255) rfl, decodeReadsBackEncode (.configure 1) rfl,
    decodeReadsBackEncode .dispatch rfl, decodeReadsBackEncode .isdone rfl, decodeReadsBackEncode .waitdone rfl,
    decodeReadsBackEncode .start rfl, decodeReadsBackEncode .stop rfl⟩

/-! ## Illegal words -/

theorem shiftRight_toNat (w : Word) : (w >>> 24).toNat = (fieldOpc w).toNat := by
  rw [fieldOpc_toNat, BitVec.toNat_ushiftRight, Nat.shiftRight_eq_div_pow]

/-- A field of `n` bits from bit `k` is 0 exactly when its mask finds no bit. -/
theorem and_mask_eq_zero_iff (w : Word) (k n : Nat) (hk : k + n ≤ 32) :
    w &&& ((BitVec.allOnes n).setWidth 32 <<< k) = 0 ↔ w.extractLsb' k n = 0 := by
  constructor
  · intro h
    apply BitVec.eq_of_getLsbD_eq
    intro i hi
    have hbit := congrArg (fun v : Word => v.getLsbD (k + i)) h
    have hlt : k + i < 32 := by omega
    simpa [hi, hlt, show i < 32 by omega] using hbit
  · intro h
    apply BitVec.eq_of_getLsbD_eq
    intro i hi
    have hbit := congrArg (fun v : BitVec n => v.getLsbD (i - k)) h
    by_cases hki : k ≤ i
    · by_cases hin : i - k < n
      · simpa [hi, hki, hin, show ¬ i < k by omega] using hbit
      · simp [hin]
    · simp [show i < k by omega]

theorem and_zeroMask_eq_zero_iff (w : Word) : w &&& 0x0000FFFF = 0 ↔ fieldZero w = 0 :=
  and_mask_eq_zero_iff w 0 16 (by decide)

theorem and_chMask_eq_zero_iff (w : Word) : w &&& 0x00FF0000 = 0 ↔ fieldCh w = 0 :=
  and_mask_eq_zero_iff w 16 8 (by decide)

end Sys2Proof

namespace Sys2Proof.Machine

/-- The host's turn with an illegal word for `CMD` (`44_host_bus.md` R253). -/
theorem step_illegalWord {s : State} {w : Word} {e : IllegalWord} {rest : List Turn} {ops : List HostOp}
    (hs : s.turns = .host :: rest) (ho : s.hostOps = .write 0xFF00000D w :: ops) (hw : s.waitHold = false)
    (he : decode w = .error e) :
    step s = .next (State.raiseStatus { s with turns := rest, hostOps := ops } .errIllegal) := by
  have hcmd : regAt 0xFF00000D = some .cmd := regAt_regBase 0x0D (by decide)
  rw [step_writeReg hs ho hw hcmd, State.writeReg, runCommand, he]

/-- Settles O5: the kinds of `decode_error_iff` read off the word, and the step that the host's write takes. -/
theorem illegalWords : Obligations.IllegalWords := by
  refine ⟨fun w => ?_, fun s w e rest ops hs ho hw he => step_illegalWord hs ho hw he⟩
  rw [decode_error_iff, opcodeRow_eq_none_iff, opcodeRow_formatC_iff, shiftRight_toNat]
  simp only [ne_eq, and_zeroMask_eq_zero_iff, and_chMask_eq_zero_iff]

end Sys2Proof.Machine
end

section
/-! The format converter's two commands, `TOFLOAT` and `TOFIXED` (`40_conversion.md` R132, R134, R135, R137). -/

namespace Sys2Proof.Machine

/-! ## The commands, case by case (R132, R134) -/

theorem toFloatMapped_iff (dst src stride : Word) (len : Nat) :
    toFloatMapped dst src stride len = true ↔
      ∀ i, i < len → mapped (src + BitVec.ofNat 32 i * stride) = true ∧ mapped (dst + BitVec.ofNat 32 i) = true := by
  simp only [toFloatMapped, allBelow_iff, Bool.and_eq_true, channelStride, unitStride]

theorem toFloatMapped_eq_false_iff (dst src stride : Word) (len : Nat) :
    toFloatMapped dst src stride len = false ↔
      ∃ i, i < len ∧ (mapped (src + BitVec.ofNat 32 i * stride) = false ∨ mapped (dst + BitVec.ofNat 32 i) = false) := by
  simp only [toFloatMapped, allBelow_eq_false_iff, Bool.and_eq_false_iff, channelStride, unitStride]

theorem toFixedMapped_iff (dst src stride : Word) (len : Nat) :
    toFixedMapped dst src stride len = true ↔
      ∀ i, i < len → mapped (dst + BitVec.ofNat 32 i * stride) = true ∧ mapped (src + BitVec.ofNat 32 i) = true :=
  toFloatMapped_iff src dst stride len

theorem toFixedMapped_eq_false_iff (dst src stride : Word) (len : Nat) :
    toFixedMapped dst src stride len = false ↔
      ∃ i, i < len ∧ (mapped (dst + BitVec.ofNat 32 i * stride) = false ∨ mapped (src + BitVec.ofNat 32 i) = false) :=
  toFloatMapped_eq_false_iff src dst stride len

theorem exec_tofloat (s : State) : exec .tofloat s = execTofloat s := rfl

theorem exec_tofixed (s : State) : exec .tofixed s = execTofixed s := rfl

theorem exec_tofloat_busy {s : State} (h : s.run = true) :
    exec .tofloat s = .next { s with status := .errBusy, res := 0 } := by
  rw [exec_tofloat, execTofloat, if_pos h, State.raiseStatus_eq]
  simp

theorem exec_tofloat_unmapped {s : State} (h : s.run = false)
    (hm : toFloatMapped s.arg0 s.arg1 s.arg2 s.arg3.toNat = false) :
    exec .tofloat s = .next { s with status := .errBus, res := 0, busFault := true } := by
  rw [exec_tofloat, execTofloat, if_neg (by simp [h]), if_neg (by simp [hm]),
    State.raiseStatus_eq]
  simp

theorem exec_tofloat_mapped {s : State} (h : s.run = false)
    (hm : toFloatMapped s.arg0 s.arg1 s.arg2 s.arg3.toNat = true) :
    exec .tofloat s =
      .next { s with
        mem := convertToFloat s.fxw.val s.arg0 s.arg1 s.arg2 s.arg3.toNat s.mem
        status := .ok
        res := 0 } := by
  rw [exec_tofloat, execTofloat, if_neg (by simp [h]), if_pos hm, State.complete]

theorem exec_tofixed_busy {s : State} (h : s.run = true) :
    exec .tofixed s = .next { s with status := .errBusy, res := 0 } := by
  rw [exec_tofixed, execTofixed, if_pos h, State.raiseStatus_eq]
  simp

theorem exec_tofixed_unmapped {s : State} (h : s.run = false)
    (hm : toFixedMapped s.arg0 s.arg1 s.arg2 s.arg3.toNat = false) :
    exec .tofixed s = .next { s with status := .errBus, res := 0, busFault := true } := by
  rw [exec_tofixed, execTofixed, if_neg (by simp [h]), if_neg (by simp [hm]),
    State.raiseStatus_eq]
  simp

theorem exec_tofixed_mapped {s : State} (h : s.run = false)
    (hm : toFixedMapped s.arg0 s.arg1 s.arg2 s.arg3.toNat = true) :
    exec .tofixed s =
      .next { s with
        mem := (convertToFixed s.fxw.val s.arg0 s.arg1 s.arg2 s.arg3.toNat (s.mem, s.satCount)).1
        satCount := (convertToFixed s.fxw.val s.arg0 s.arg1 s.arg2 s.arg3.toNat (s.mem, s.satCount)).2
        status := .ok
        res := 0 } := by
  rw [exec_tofixed, execTofixed, if_neg (by simp [h]), if_pos hm]
  rfl

/-! ## The samples, in ascending order (R137) -/

/-- What pass `i` of `ToFloat` writes stays there: it converts the source word as the passes before it left it. -/
theorem convertToFloat_readWord_eq (fxw : Nat) (dst src stride : Word) (len : Nat) (m : Memory) (hlen : len ≤ 2 ^ 32) (i : Nat)
    (hi : i < len) :
    (convertToFloat fxw dst src stride len m).readWord (unitStride dst i) =
      floatOf fxw ((convertToFloat fxw dst src stride i m).readWord (channelStride src stride i)) := by
  rw [convertToFloat_eq, writeLoop_readWord len (unitStride dst)
    (fun i m => floatOf fxw (m.readWord (channelStride src stride i))) m i hi fun j hj hjn e => by
      have := unitStride_inj dst j i (by omega) (by omega) e
      omega, convertToFloat_eq]

/-- A converted sample whose source an earlier sample `j` wrote: nothing writes that word again. -/
theorem convertToFloat_readWord_of_overlap (fxw : Nat) (dst src stride : Word) (len : Nat) (m : Memory) (hlen : len ≤ 2 ^ 32)
    (i j : Nat) (hi : i < len) (hj : j < i) (h : unitStride dst j = channelStride src stride i) :
    (convertToFloat fxw dst src stride len m).readWord (unitStride dst i) =
      floatOf fxw ((convertToFloat fxw dst src stride len m).readWord (unitStride dst j)) := by
  rw [convertToFloat_readWord_eq _ _ _ _ _ _ hlen i hi, convertToFloat_readWord_eq _ _ _ _ _ _ hlen j (by omega), ← h,
    convertToFloat_readWord_eq _ _ _ _ _ _ (by omega) j hj]

/-- Settles O9, case by case. -/
theorem tofloatCommand : Obligations.TofloatCommand := by
  intro s
  have hlen : s.arg3.toNat ≤ 2 ^ 32 := s.arg3.isLt.le
  refine ⟨exec_tofloat_busy, fun hr hu => exec_tofloat_unmapped hr ((toFloatMapped_eq_false_iff _ _ _ _).mpr hu),
    fun hr hm => ⟨_, exec_tofloat_mapped hr ((toFloatMapped_iff _ _ _ _).mpr hm), fun i hi h => ?_, fun i j hi hj h => ?_,
      fun k h => ?_⟩⟩
  · exact convertToFloat_readWord _ _ _ _ _ _ hlen i hi h
  · exact convertToFloat_readWord_of_overlap _ _ _ _ _ _ hlen i j hi hj h
  · exact convertToFloat_byteAt _ _ _ _ _ _ k h

/-- Settles O10: the sequence is that of the loop's passes. -/
theorem tofixedCommand : Obligations.TofixedCommand := by
  intro s
  refine ⟨exec_tofixed_busy,
    fun hr hu => exec_tofixed_unmapped hr ((toFixedMapped_eq_false_iff _ _ _ _).mpr hu),
    fun hr hm =>
      ⟨fun n => (convertToFixed s.fxw.val s.arg0 s.arg1 s.arg2 n (s.mem, s.satCount)).1,
        fun n => (convertToFixed s.fxw.val s.arg0 s.arg1 s.arg2 n (s.mem, s.satCount)).2, rfl, rfl, fun i _ => ⟨rfl, rfl⟩,
        exec_tofixed_mapped hr ((toFixedMapped_iff _ _ _ _).mpr hm), fun k h => ?_⟩⟩
  exact convertToFixed_byteAt _ _ _ _ _ _ k h

/-- Where no sample's source is written, `SAT_COUNT` grows by the number of saturated samples (R135). -/
theorem convertToFixed_count (fxw : Nat) (dst src stride : Word) (len : Nat) (p : Memory × Word)
    (h : ∀ i j, i < len → j < len → channelStride dst stride i ≠ unitStride src j) :
    (convertToFixed fxw dst src stride len p).2.toNat =
      min (2 ^ 32 - 1) (p.2.toNat +
        ((List.range len).filter fun i => (fixOf fxw (p.1.readWord (unitStride src i))).2).length) := by
  induction len with
  | zero =>
    have := p.2.isLt
    simp only [convertToFixed, iterUp_zero, List.range_zero, List.filter_nil, List.length_nil]
    omega
  | succ n ih =>
    have ih := ih fun i j hi hj => h i j (by omega) (by omega)
    have hsrc := convertToFixed_readWord_of_ne fxw dst src stride n p (unitStride src n) fun i hi =>
      h i n (by omega) (by omega)
    rw [convertToFixed, iterUp_succ, ← convertToFixed, convertSample, hsrc, List.range_succ, List.filter_append,
      List.length_append]
    cases hsat : (fixOf fxw (p.1.readWord (unitStride src n))).2 with
    | false => simpa [hsat] using ih
    | true =>
      simp only [if_true, satInc_toNat, ih, List.filter_cons, List.filter_nil, hsat, List.length_cons, List.length_nil]
      omega

/-- Settles O11, by the read of a converted sample and the count. -/
theorem tofixedSamplesAndCount : Obligations.TofixedSamplesAndCount := by
  intro s hr hm hsep
  exact ⟨_, _, exec_tofixed_mapped hr ((toFixedMapped_iff _ _ _ _).mpr hm),
    fun i hi hlater => convertToFixed_readWord _ _ _ _ _ _ i hi hlater fun j hj => hsep j i (by omega) hi,
    convertToFixed_count _ _ _ _ _ _ hsep⟩

end Sys2Proof.Machine
end

section
/-! The conversion of one sample, `FloatOf` and `FixOf`, and their round trip (`40_conversion.md` R131, R133, R136). -/

namespace Sys2Proof.Machine

/-! ## Rounding half to even (R15) -/

theorem rneDiv_mul_right (a b c : Nat) (hc : 0 < c) : rneDiv (a * c) (b * c) = rneDiv a b := by
  simp only [rneDiv, Nat.mul_div_mul_right _ _ hc, Nat.mul_mod_mul_right, ← Nat.mul_assoc, Nat.mul_lt_mul_right hc,
    Nat.mul_left_inj hc.ne']

/-- `roundHalfEven` is a nearest integer, an even one at a tie. -/
theorem roundHalfEven_nearest (z : Int) (den : Nat) (hd : 0 < den) :
    2 * |roundHalfEven z den * den - z| < den ∨
      (2 * |roundHalfEven z den * den - z| = den ∧ roundHalfEven z den % 2 = 0) := by
  obtain ⟨hlo, hhi, htie⟩ := rneDiv_nearest z.natAbs den hd
  have hcast : ((rneDiv z.natAbs den * den : Nat) : Int) = rneDiv z.natAbs den * den := by push_cast; rfl
  simp only [roundHalfEven, abs_eq_max_neg]
  split
  · rw [Int.neg_mul, ← hcast]; omega
  · rw [← hcast]; omega

theorem roundHalfEven_mul (r : Int) (den : Nat) (hd : 0 < den) : roundHalfEven (r * den) den = r := by
  have hneg : r * den < 0 ↔ r < 0 := by rw [mul_neg_iff]; omega
  rw [roundHalfEven, Int.natAbs_mul, Int.natAbs_natCast, rneDiv_mul _ _ hd]
  simp only [hneg]
  split <;> omega

/-- The clamp only acts outside the sample range. -/
theorem clampSample_of_le {fxw : Nat} {r : Int} (h : |r| ≤ 2 ^ (fxw - 1)) :
    clampSample fxw r =
      if 2 ^ (fxw - 1) - 1 < r then (BitVec.ofInt 32 (2 ^ (fxw - 1) - 1), true) else (BitVec.ofInt 32 r, false) := by
  have hmin : ¬ r < fxMin fxw := by rw [fxMin, not_lt]; exact (abs_le.mp h).1
  simp only [clampSample, fxMax, if_neg hmin]

theorem fixOf_finite {f : Word} (fxw : Nat) (h : f32IsFinite f = true) :
    fixOf fxw f = clampSample fxw (roundHalfEven (f32Units f * 2 ^ (fxw - 1)) (2 ^ 149)) := by
  obtain ⟨hn, hi⟩ := (f32IsFinite_iff f).mp h
  simp [fixOf, hn, hi]

/-- Settles O13, class by class. -/
theorem fixOfRoundsAndClamps : Obligations.FixOfRoundsAndClamps := by
  intro fxw f _ _
  refine ⟨fun h => ?_, fun h => ?_, fun h => ⟨roundHalfEven (f32Units f * 2 ^ (fxw - 1)) (2 ^ 149), ?_, ?_⟩⟩
  · rw [fixOf, if_pos h]
  · simp only [fixOf, not_isNaN_of_isInf h, h, fxMax, fxMin, if_true, Bool.false_eq_true, if_false]
    split <;> rfl
  · rw [abs_sub_comm]
    exact_mod_cast roundHalfEven_nearest (f32Units f * 2 ^ (fxw - 1)) (2 ^ 149) (by decide)
  · rw [fixOf_finite fxw h]; rfl

/-! ## The scale of a rounded magnitude (R14) -/

namespace F32Scale

variable {n k e : Nat}

/-- The scale is at least that of any 24-bit window the magnitude reaches. -/
theorem ge_of_le (h : F32Scale n k e) {e' : Nat} (hn : 2 ^ 23 * 2 ^ (k + e') ≤ n) : e' ≤ e := by
  have hlt := h.lt
  by_contra hc
  have hpow : 2 ^ (k + e + 1) ≤ 2 ^ (k + e') := Nat.pow_le_pow_right (by decide) (by omega)
  rw [Nat.pow_succ] at hpow
  omega

/-- The scale is at most that of any 24-bit window the magnitude fits in. -/
theorem le_of_lt (h : F32Scale n k e) {e' : Nat} (hn : n < 2 ^ 24 * 2 ^ (k + e')) : e ≤ e' := by
  rcases h.full with rfl | hfull
  · exact Nat.zero_le _
  · by_contra hc
    have hpow : 2 ^ (k + e' + 1) ≤ 2 ^ (k + e) := Nat.pow_le_pow_right (by decide) (by omega)
    rw [Nat.pow_succ] at hpow
    omega

/-- A magnitude of at most 24 significant bits is not rounded. -/
theorem quot_exact (h : F32Scale n k e) {m t : Nat} (hm : m < 2 ^ 24) (hn : n = m * 2 ^ (k + t)) :
    rneDiv n (2 ^ (k + e)) * 2 ^ (k + e) = n := by
  have het : e ≤ t := h.le_of_lt (by rw [hn]; exact Nat.mul_lt_mul_of_pos_right hm (Nat.two_pow_pos _))
  obtain ⟨q, hq⟩ : 2 ^ (k + e) ∣ n := hn ▸ Dvd.dvd.mul_left (Nat.pow_dvd_pow 2 (by omega)) m
  rw [hq, Nat.mul_comm _ q, rneDiv_mul _ _ (Nat.two_pow_pos _)]

end F32Scale

/-! ## `f32_of_int_scaled` on `|z| <= 2^s` (R14) -/

section OfIntScaled

variable {z : Int} {s : Nat}

/-- The magnitude, in units of `2^-149`, is at most that of 1. -/
theorem scaled_natAbs_le (hz : |z| ≤ 2 ^ s) (hs : s ≤ 149) : z.natAbs * 2 ^ (149 - s) ≤ 2 ^ 149 := by
  have habs : z.natAbs ≤ 2 ^ s := by zify; exact hz
  calc z.natAbs * 2 ^ (149 - s) ≤ 2 ^ s * 2 ^ (149 - s) := Nat.mul_le_mul_right _ habs
    _ = 2 ^ 149 := by rw [← Nat.pow_add, Nat.add_sub_cancel' hs]

/-- The result at the scale `e` of its magnitude. -/
theorem f32OfIntScaled_eq_pack (hz : |z| ≤ 2 ^ s) (hs : s ≤ 149) :
    ∃ e, F32Scale (z.natAbs * 2 ^ (149 - s)) 0 e ∧
      e * 2 ^ 23 + rneDiv (z.natAbs * 2 ^ (149 - s)) (2 ^ (0 + e)) < 0x7F800000 ∧
      f32OfIntScaled z s =
        f32Pack (decide (z < 0)) (e * 2 ^ 23 + rneDiv (z.natAbs * 2 ^ (149 - s)) (2 ^ (0 + e))) := by
  obtain ⟨e, hscale, hbits⟩ := f32RoundBits_eq (z.natAbs * 2 ^ (149 - s)) 0
  have hb : e * 2 ^ 23 + rneDiv (z.natAbs * 2 ^ (149 - s)) (2 ^ (0 + e)) < 0x7F800000 := by
    rw [← Nat.not_le, hscale.overflow_iff, Nat.not_le]
    exact (scaled_natAbs_le hz hs).trans_lt (by decide)
  exact ⟨e, hscale, hb, by rw [f32OfIntScaled, f32Round, hbits, min_eq_right hb.le]⟩

theorem f32OfIntScaled_finite (hz : |z| ≤ 2 ^ s) (hs : s ≤ 149) : f32IsFinite (f32OfIntScaled z s) = true := by
  obtain ⟨e, -, hb, heq⟩ := f32OfIntScaled_eq_pack hz hs
  rw [heq]
  exact f32Pack_finite hb

theorem f32OfIntScaled_sign (hz : |z| ≤ 2 ^ s) (hs : s ≤ 149) : f32Sign (f32OfIntScaled z s) = decide (z < 0) := by
  obtain ⟨e, -, hb, heq⟩ := f32OfIntScaled_eq_pack hz hs
  rw [heq]
  exact f32Pack_sign _ _ (by omega)

theorem f32OfIntScaled_mag (hz : |z| ≤ 2 ^ s) (hs : s ≤ 149) :
    ∃ e, F32Scale (z.natAbs * 2 ^ (149 - s)) 0 e ∧
      f32Mag (f32OfIntScaled z s) = rneDiv (z.natAbs * 2 ^ (149 - s)) (2 ^ e) * 2 ^ e := by
  obtain ⟨e, hscale, hb, heq⟩ := f32OfIntScaled_eq_pack hz hs
  exact ⟨e, hscale, by rw [heq, hscale.mag_pack _ hb, Nat.zero_add]⟩

/-- A result other than 0 is not subnormal: its magnitude has more than 24 bits. -/
theorem f32OfIntScaled_exp_ne_zero (hz : |z| ≤ 2 ^ s) (hs : s ≤ 125) (h0 : z ≠ 0) : f32Exp (f32OfIntScaled z s) ≠ 0 := by
  obtain ⟨e, hscale, hb, heq⟩ := f32OfIntScaled_eq_pack hz (by omega)
  have hn : 2 ^ 24 ≤ z.natAbs * 2 ^ (149 - s) :=
    calc 2 ^ 24 ≤ 2 ^ (149 - s) := Nat.pow_le_pow_right (by decide) (by omega)
      _ ≤ z.natAbs * 2 ^ (149 - s) := Nat.le_mul_of_pos_left _ (Int.natAbs_pos.mpr h0)
  have he : 1 ≤ e := hscale.ge_of_le (hn.trans' (by decide))
  have hq := hscale.le_quot (by omega)
  rw [heq, f32Pack_exp _ _ (by omega)]
  omega

theorem f32OfIntScaled_zero (s : Nat) : f32OfIntScaled 0 s = 0 := by
  simp only [f32OfIntScaled, Int.natAbs_zero, Nat.zero_mul]
  decide

/-- `z` in units of `2^-149`, from its magnitude. -/
theorem scaled_eq (z : Int) (t : Nat) :
    z * 2 ^ t = if z < 0 then -((z.natAbs * 2 ^ t : Nat) : Int) else ((z.natAbs * 2 ^ t : Nat) : Int) := by
  push_cast
  split <;> rename_i h
  · rw [abs_of_neg h]; ring
  · rw [abs_of_nonneg (by omega)]

theorem f32OfIntScaled_units (hz : |z| ≤ 2 ^ s) (hs : s ≤ 149) :
    f32Units (f32OfIntScaled z s) = if z < 0 then -(f32Mag (f32OfIntScaled z s) : Int) else f32Mag (f32OfIntScaled z s) := by
  rw [f32Units, f32OfIntScaled_sign hz hs]
  simp only [decide_eq_true_eq]

/-- No finite word is nearer to `z * 2^-s`, and an equally near one only if the result is even: among words of its own sign
by the rounding of the magnitude; a word of the other sign is no nearer than its magnitude. -/
theorem f32OfIntScaled_nearest (hz : |z| ≤ 2 ^ s) (hs : s ≤ 149) {g : Word} (hg : f32IsFinite g = true) :
    |f32Units (f32OfIntScaled z s) - z * 2 ^ (149 - s)| ≤ |f32Units g - z * 2 ^ (149 - s)| ∧
      (|f32Units (f32OfIntScaled z s) - z * 2 ^ (149 - s)| = |f32Units g - z * 2 ^ (149 - s)| →
        f32Units g ≠ f32Units (f32OfIntScaled z s) → (f32OfIntScaled z s).getLsbD 0 = false) := by
  rcases eq_or_ne z 0 with rfl | h0
  · have hzero : f32Units 0 = 0 := by decide
    rw [f32OfIntScaled_zero, hzero]
    simp
  have hn : 0 < z.natAbs * 2 ^ (149 - s) := Nat.mul_pos (Int.natAbs_pos.mpr h0) (Nat.two_pow_pos _)
  have hlt : z.natAbs * 2 ^ (149 - s) < (2 ^ 25 - 1) * 2 ^ (252 + 0) := (scaled_natAbs_le hz hs).trans_lt (by decide)
  obtain ⟨-, -, hround⟩ := (roundingGivesTheNearestValue (decide (z < 0)) _ 0).2 hlt
  obtain ⟨hnear, htie⟩ := hround g hg
  rw [← f32OfIntScaled, Int.pow_zero, Int.mul_one, Int.mul_one] at hnear htie
  rw [f32OfIntScaled_units hz hs, scaled_eq, f32Units]
  generalize z.natAbs * 2 ^ (149 - s) = n at *
  simp only [abs_eq_max_neg] at *
  refine ⟨?_, fun heq hne => htie ?_ ?_⟩
  · split_ifs <;> omega
  · split_ifs at heq <;> omega
  · split_ifs at heq hne <;> omega

/-- `z` of at most 24 significant bits is not rounded. -/
theorem f32OfIntScaled_units_of_bits (hz : |z| ≤ 2 ^ s) (hs : s ≤ 149) {m : Int} {k : Nat} (hm : |m| < 2 ^ 24)
    (hmk : z = m * 2 ^ k) : f32Units (f32OfIntScaled z s) = z * 2 ^ (149 - s) := by
  obtain ⟨e, hscale, hmag⟩ := f32OfIntScaled_mag hz hs
  have hn : z.natAbs * 2 ^ (149 - s) = m.natAbs * 2 ^ (0 + (k + (149 - s))) := by
    rw [hmk, Int.natAbs_mul, Int.natAbs_pow, Nat.zero_add, Nat.pow_add, Nat.mul_assoc]; rfl
  have hexact := hscale.quot_exact (by zify; exact hm) hn
  rw [Nat.zero_add] at hexact
  rw [f32OfIntScaled_units hz hs, hmag, hexact, ← scaled_eq]

/-- `z` of `24 + k` significant bits is rounded to 24. -/
theorem f32OfIntScaled_units_of_long (hz : |z| ≤ 2 ^ s) (hs : s ≤ 149) {k : Nat} (hlo : 2 ^ (23 + k) ≤ |z|)
    (hhi : |z| < 2 ^ (24 + k)) :
    f32Units (f32OfIntScaled z s) = roundHalfEven z (2 ^ k) * 2 ^ k * 2 ^ (149 - s) := by
  obtain ⟨e, hscale, hmag⟩ := f32OfIntScaled_mag hz hs
  have he : e = k + (149 - s) := by
    apply Nat.le_antisymm
    · apply hscale.le_of_lt
      have : z.natAbs < 2 ^ (24 + k) := by zify; exact hhi
      calc z.natAbs * 2 ^ (149 - s) < 2 ^ (24 + k) * 2 ^ (149 - s) := Nat.mul_lt_mul_of_pos_right this (Nat.two_pow_pos _)
        _ = 2 ^ 24 * 2 ^ (0 + (k + (149 - s))) := by ring
    · apply hscale.ge_of_le
      have : 2 ^ (23 + k) ≤ z.natAbs := by zify; exact hlo
      calc 2 ^ 23 * 2 ^ (0 + (k + (149 - s))) = 2 ^ (23 + k) * 2 ^ (149 - s) := by ring
        _ ≤ z.natAbs * 2 ^ (149 - s) := Nat.mul_le_mul_right _ this
  have hquot : rneDiv (z.natAbs * 2 ^ (149 - s)) (2 ^ e) = rneDiv z.natAbs (2 ^ k) := by
    rw [he, Nat.pow_add, rneDiv_mul_right _ _ _ (Nat.two_pow_pos _)]
  rw [f32OfIntScaled_units hz hs, hmag, hquot, he, roundHalfEven]
  push_cast
  split <;> ring

/-- The result lies in `[-1.0, +1.0]`: `±1.0` is no further from `z * 2^-s`. -/
theorem f32OfIntScaled_units_le (hz : |z| ≤ 2 ^ s) (hs : s ≤ 149) : |f32Units (f32OfIntScaled z s)| ≤ 2 ^ 149 := by
  have hone : f32Units 0x3F800000 = 2 ^ 149 ∧ f32Units 0xBF800000 = - 2 ^ 149 := by decide
  have hpos := (f32OfIntScaled_nearest hz hs (g := 0x3F800000) (by decide)).1
  have hneg := (f32OfIntScaled_nearest hz hs (g := 0xBF800000) (by decide)).1
  have hle := scaled_natAbs_le hz hs
  rw [hone.1] at hpos
  rw [hone.2] at hneg
  rw [scaled_eq] at hpos hneg
  simp only [abs_eq_max_neg] at *
  split_ifs at * <;> omega

end OfIntScaled

/-! ## `FloatOf` (R131) -/

theorem sextSample_lt (fxw : Nat) (w : Word) : sextSample fxw w < 2 ^ (fxw - 1) := BitVec.toInt_lt

theorem neg_le_sextSample (fxw : Nat) (w : Word) : -2 ^ (fxw - 1) ≤ sextSample fxw w := BitVec.le_toInt _

theorem sextSample_abs_le (fxw : Nat) (w : Word) : |sextSample fxw w| ≤ 2 ^ (fxw - 1) :=
  abs_le.mpr ⟨neg_le_sextSample fxw w, (sextSample_lt fxw w).le⟩

/-- A magnitude of at most `2^24` has at most 24 significant bits. -/
theorem exists_mul_pow_of_abs_le {z : Int} (h : |z| ≤ 2 ^ 24) : ∃ (m : Int) (k : Nat), |m| < 2 ^ 24 ∧ z = m * 2 ^ k := by
  rcases h.lt_or_eq with h | h
  · exact ⟨z, 0, h, by simp⟩
  · rcases (abs_eq (by decide)).mp h with rfl | rfl
    · exact ⟨1, 24, by decide, by decide⟩
    · exact ⟨-1, 24, by decide, by decide⟩

theorem scaled_mul_pow (z : Int) {s : Nat} (hs : s ≤ 149) : z * 2 ^ (149 - s) * 2 ^ s = z * 2 ^ 149 := by
  rw [mul_assoc, ← pow_add, Nat.sub_add_cancel hs]

/-- A distance in units of `2^-149` against the same distance in units of `2^-149 * 2^-s`. -/
theorem abs_mul_pow_sub (u z : Int) {s : Nat} (hs : s ≤ 149) :
    |u * 2 ^ s - z * 2 ^ 149| = |u - z * 2 ^ (149 - s)| * 2 ^ s := by
  rw [← scaled_mul_pow z hs, ← sub_mul, abs_mul, abs_of_pos (a := (2 : Int) ^ s) (by positivity)]

theorem floatOf_finite {fxw : Nat} (w : Word) (hfxw : fxw ≤ 32) : f32IsFinite (floatOf fxw w) = true :=
  f32OfIntScaled_finite (sextSample_abs_le fxw w) (by omega)

/-- Settles O12, from `f32_of_int_scaled` on samples. -/
theorem floatOfIsTheNearestFloat : Obligations.FloatOfIsTheNearestFloat := by
  intro fxw w _ hfxw
  have hz := sextSample_abs_le fxw w
  have hs : fxw - 1 ≤ 149 := by omega
  refine ⟨floatOf_finite w hfxw, fun h0 => ?_,
    fun h0 => ⟨f32OfIntScaled_sign hz hs, f32OfIntScaled_exp_ne_zero hz (by omega) h0⟩,
    f32OfIntScaled_units_le hz hs, fun g hg => ?_, fun h25 => ?_⟩
  · rw [floatOf, h0, f32OfIntScaled_zero]
  · have hpow : (0 : Int) < 2 ^ (fxw - 1) := by positivity
    rw [abs_mul_pow_sub _ _ hs, abs_mul_pow_sub _ _ hs, mul_le_mul_iff_of_pos_right hpow, mul_left_inj' hpow.ne']
    exact f32OfIntScaled_nearest hz hs hg
  · have h24 : |sextSample fxw w| ≤ 2 ^ 24 := hz.trans (pow_le_pow_right₀ (by decide) (by omega))
    obtain ⟨m, k, hm, hmk⟩ := exists_mul_pow_of_abs_le h24
    rw [floatOf, f32OfIntScaled_units_of_bits hz hs hm hmk, scaled_mul_pow _ hs]

/-! ## The round trip (R136) -/

/-- A sample whose float is the integer `r` in sample steps comes back as `r`, clamped at the top only. -/
theorem fixOf_floatOf {fxw : Nat} {w : Word} {r : Int} (hfxw : fxw ≤ 32)
    (hr : f32Units (floatOf fxw w) = r * 2 ^ (149 - (fxw - 1))) :
    |r| ≤ 2 ^ (fxw - 1) ∧
      fixOf fxw (floatOf fxw w) =
        if 2 ^ (fxw - 1) - 1 < r then (BitVec.ofInt 32 (2 ^ (fxw - 1) - 1), true) else (BitVec.ofInt 32 r, false) := by
  have hz := sextSample_abs_le fxw w
  have hs : fxw - 1 ≤ 149 := by omega
  have hle : |r| ≤ 2 ^ (fxw - 1) := by
    have hunits : |f32Units (floatOf fxw w)| ≤ 2 ^ 149 := f32OfIntScaled_units_le hz hs
    have hpow : (0 : Int) < 2 ^ (149 - (fxw - 1)) := by positivity
    rw [hr, abs_mul, abs_of_pos hpow, show 149 = fxw - 1 + (149 - (fxw - 1)) by omega, pow_add] at hunits
    simpa [hpow] using hunits
  have hround : roundHalfEven (f32Units (floatOf fxw w) * 2 ^ (fxw - 1)) (2 ^ 149) = r := by
    rw [hr, scaled_mul_pow _ hs]
    exact_mod_cast roundHalfEven_mul r (2 ^ 149) (by decide)
  refine ⟨hle, ?_⟩
  rw [fixOf_finite fxw (floatOf_finite w hfxw), hround, clampSample_of_le hle]

/-- The clamp brings `r` no further from the sample, which is itself in range. -/
theorem fixOf_floatOf_dist_le {fxw : Nat} {w : Word} {r : Int} (hfxw : fxw ≤ 32)
    (hr : f32Units (floatOf fxw w) = r * 2 ^ (149 - (fxw - 1))) :
    |(fixOf fxw (floatOf fxw w)).1.toInt - sextSample fxw w| ≤ |r - sextSample fxw w| := by
  obtain ⟨hle, heq⟩ := fixOf_floatOf hfxw hr
  have hz := sextSample_lt fxw w
  have hpow : (2 : Int) ^ (fxw - 1) ≤ 2 ^ 31 := pow_le_pow_right₀ (by decide) (by omega)
  have hone : (1 : Int) ≤ 2 ^ (fxw - 1) := one_le_pow₀ (by decide)
  have htoInt : ∀ x : Int, |x| ≤ 2 ^ (fxw - 1) → x < 2 ^ (fxw - 1) → (BitVec.ofInt 32 x).toInt = x := by
    intro x hx hlt
    have := (abs_le.mp hx).1
    exact BitVec.toInt_ofInt_eq_self (by decide) (by omega) (by omega)
  rw [heq]
  generalize sextSample fxw w = z at *
  generalize (2 : Int) ^ (fxw - 1) = top at *
  split
  · rw [htoInt (top - 1) (by rw [abs_of_nonneg] <;> omega) (by omega)]
    simp only [abs_eq_max_neg]
    omega
  · rw [htoInt r hle (by omega)]

theorem floatOf_units_of_bits {fxw : Nat} {w : Word} (hfxw : fxw ≤ 32)
    (h : |sextSample fxw w| ≤ 2 ^ 24 ∨ ∃ (m : Int) (k : Nat), |m| < 2 ^ 24 ∧ sextSample fxw w = m * 2 ^ k) :
    f32Units (floatOf fxw w) = sextSample fxw w * 2 ^ (149 - (fxw - 1)) := by
  obtain ⟨m, k, hm, hmk⟩ := h.elim exists_mul_pow_of_abs_le id
  exact f32OfIntScaled_units_of_bits (sextSample_abs_le fxw w) (by omega) hm hmk

theorem floatOf_units_of_long {fxw : Nat} {w : Word} (hfxw : fxw ≤ 32) {k : Nat} (hlo : 2 ^ (23 + k) ≤ |sextSample fxw w|)
    (hhi : |sextSample fxw w| < 2 ^ (24 + k)) :
    f32Units (floatOf fxw w) = roundHalfEven (sextSample fxw w) (2 ^ k) * 2 ^ k * 2 ^ (149 - (fxw - 1)) :=
  f32OfIntScaled_units_of_long (sextSample_abs_le fxw w) (by omega) hlo hhi

/-- A magnitude above `2^24` has `24 + k` significant bits for some `k`. -/
theorem exists_long_of_lt_abs {z : Int} (h : 2 ^ 24 < |z|) : ∃ k : Nat, 2 ^ (23 + k) ≤ |z| ∧ |z| < 2 ^ (24 + k) := by
  have hn : 2 ^ 24 < z.natAbs := by zify; exact h
  have hlog : 24 ≤ z.natAbs.log2 := (Nat.le_log2 (by omega)).mpr hn.le
  rw [Int.abs_eq_natAbs]
  refine ⟨z.natAbs.log2 - 23, ?_, ?_⟩
  · rw [show 23 + (z.natAbs.log2 - 23) = z.natAbs.log2 by omega]
    exact_mod_cast Nat.log2_self_le (n := z.natAbs) (by omega)
  · rw [show 24 + (z.natAbs.log2 - 23) = z.natAbs.log2 + 1 by omega]
    exact_mod_cast Nat.lt_log2_self (n := z.natAbs)

/-- The round trip stays within half a unit in the last place: a sample that is rounded is not the lowest one, which is a
power of two, so its last place is at most `2^(FXW-25)` steps. -/
theorem roundTrip_dist_le {fxw : Nat} (w : Word) (hfxw : fxw ≤ 32) :
    2 ^ 26 * |(fixOf fxw (floatOf fxw w)).1.toInt - sextSample fxw w| ≤ 2 ^ fxw := by
  by_cases hbits : |sextSample fxw w| ≤ 2 ^ 24 ∨ ∃ (m : Int) (k : Nat), |m| < 2 ^ 24 ∧ sextSample fxw w = m * 2 ^ k
  · have hdist := fixOf_floatOf_dist_le hfxw (floatOf_units_of_bits hfxw hbits)
    rw [sub_self, abs_zero, abs_nonpos_iff] at hdist
    rw [hdist, abs_zero, mul_zero]
    positivity
  · obtain ⟨hbig, hlong⟩ := not_or.mp hbits
    obtain ⟨k, hlo, hhi⟩ := exists_long_of_lt_abs (not_le.mp hbig)
    have hdist := fixOf_floatOf_dist_le hfxw (floatOf_units_of_long hfxw hlo hhi)
    have hround := roundHalfEven_nearest (sextSample fxw w) (2 ^ k) (Nat.two_pow_pos k)
    have hlt : |sextSample fxw w| < 2 ^ (fxw - 1) := by
      refine abs_lt.mpr ⟨lt_of_le_of_ne (neg_le_sextSample fxw w) fun h => hlong ⟨-1, fxw - 1, by decide, ?_⟩,
        sextSample_lt fxw w⟩
      rw [← h, neg_one_mul]
    have hk : 23 + k < fxw - 1 := (pow_lt_pow_iff_right₀ (by decide : (1 : Int) < 2)).mp (hlo.trans_lt hlt)
    have hpow : (2 : Int) ^ 25 * 2 ^ k ≤ 2 ^ fxw := by
      rw [← pow_add]
      exact pow_le_pow_right₀ (by decide) (by omega)
    push_cast at hround
    omega

/-- Settles O14: the float is exact, or the sample rounded to 24 bits. -/
theorem roundTripIsWithinHalfAnUlp : Obligations.RoundTripIsWithinHalfAnUlp := by
  intro fxw w _ hfxw
  refine ⟨fun hbits => ?_, fun k hlo hhi => ⟨roundHalfEven (sextSample fxw w) (2 ^ k), ?_, ?_⟩, roundTrip_dist_le w hfxw⟩
  · have hlt := sextSample_lt fxw w
    rw [(fixOf_floatOf hfxw (floatOf_units_of_bits hfxw hbits)).2, if_neg (by omega)]
  · exact_mod_cast roundHalfEven_nearest (sextSample fxw w) (2 ^ k) (Nat.two_pow_pos k)
  · exact (fixOf_floatOf hfxw (floatOf_units_of_long hfxw hlo hhi)).2

end Sys2Proof.Machine
end

section
/-! The history stager (`41_history_stager.md`): its two commands (R151, R153), the stream in the window (R155), and the
independence of the channels (R157). -/

namespace Sys2Proof.Machine

/-! ## The commands, case by case (R151, R153) -/

/-- The configurations that `STAGE` and `CAPTURE` reject. -/
theorem State.stagerConfigured_eq_false_iff (s : State) (c : Nat) :
    s.stagerConfigured c = false ↔ 16 ≤ c ∨ (s.chan c).configured = false ∨ s.bsize.toNat = 0 ∨ 4096 < s.bsize.toNat := by
  simp only [State.stagerConfigured, State.bsizeLegal, inRange, Bool.and_eq_false_iff, decide_eq_false_iff_not,
    not_lt, not_le, Nat.lt_one_iff, or_assoc]
  exact Iff.rfl

theorem State.stagerConfigured_of_legal {s : State} {c : Nat} (hc : c < 16) (hcfg : (s.chan c).configured = true)
    (hb : 1 ≤ s.bsize.toNat) (hb' : s.bsize.toNat ≤ 4096) : s.stagerConfigured c = true := by
  rw [← Bool.not_eq_false, s.stagerConfigured_eq_false_iff, hcfg]
  simp only [Bool.true_eq_false, false_or]
  omega

theorem exec_stage (c : Nat) (s : State) : exec (.stage c) s = execStage c s := rfl

theorem exec_capture (c : Nat) (s : State) : exec (.capture c) s = execCapture c s := rfl

theorem exec_stage_busy {s : State} (c : Nat) (h : s.run = true ∨ s.accelBusy = true) :
    exec (.stage c) s = .next { s with status := .errBusy, res := 0 } := by
  rw [exec_stage, execStage, if_pos (by simpa using h)]
  rfl

theorem exec_stage_unconfigured {s : State} {c : Nat} (hr : s.run = false) (ha : s.accelBusy = false)
    (h : s.stagerConfigured c = false) :
    exec (.stage c) s = .next { s with status := .errConfig, res := 0, cfgError := true } := by
  rw [exec_stage, execStage, if_neg (by simp [hr, ha]), if_pos (by simp [h])]
  rfl

theorem exec_stage_legal {s : State} {c : Nat} (hr : s.run = false) (ha : s.accelBusy = false)
    (h : s.stagerConfigured c = true) (hm : stagerMapped c (s.histLen c) s.bsize.toNat = true) :
    exec (.stage c) s =
      .next { s with mem := stageWords c (s.histLen c) s.bsize.toNat s.mem, status := .ok, res := 0 } := by
  rw [exec_stage, execStage, if_neg (by simp [hr, ha]), if_neg (by simp [h]), if_neg (by simp [hm])]
  rfl

theorem exec_capture_busy {s : State} (c : Nat) (h : s.run = true) :
    exec (.capture c) s = .next { s with status := .errBusy, res := 0 } := by
  rw [exec_capture, execCapture, if_pos h]
  rfl

theorem exec_capture_unconfigured {s : State} {c : Nat} (hr : s.run = false) (h : s.stagerConfigured c = false) :
    exec (.capture c) s = .next { s with status := .errConfig, res := 0, cfgError := true } := by
  rw [exec_capture, execCapture, if_neg (by simp [hr]), if_pos (by simp [h])]
  rfl

theorem exec_capture_legal {s : State} {c : Nat} (hr : s.run = false) (h : s.stagerConfigured c = true)
    (hm : stagerMapped c (s.histLen c) s.bsize.toNat = true) :
    exec (.capture c) s =
      .next { s with mem := captureWords c (s.histLen c) s.bsize.toNat s.mem, status := .ok, res := 0 } := by
  rw [exec_capture, execCapture, if_neg (by simp [hr]), if_neg (by simp [h]), if_neg (by simp [hm])]
  rfl

/-- A legal tap count gives a history within its buffer (R150). -/
theorem State.histLen_le {s : State} {c : Nat} (h : (s.chan c).taps.toNat ≤ 4096) : s.histLen c ≤ 4095 :=
  Nat.sub_le_sub_right h 1

/-- Settles O17: each case is a branch of the command, and the window is what `Stage(c)` writes. -/
theorem stageCommand : Obligations.StageCommand := by
  intro c s
  refine ⟨exec_stage_busy c,
    fun hr ha h => exec_stage_unconfigured hr ha ((s.stagerConfigured_eq_false_iff c).mpr h),
    fun hr ha hc hcfg hb hb' _ ht => ?_⟩
  have hh : s.histLen c ≤ 4095 := State.histLen_le ht
  refine ⟨_, exec_stage_legal hr ha (State.stagerConfigured_of_legal hc hcfg hb hb') (stagerMapped_of_legal _ _ _ hc hh hb'),
    fun i hi => ?_, fun j hj => ?_, fun k hk => ?_⟩
  · exact stageWords_history _ _ _ _ (by omega) (by omega) hb' i hi
  · exact stageWords_block _ _ _ _ (by omega) (by omega) hb' j hj
  · exact stageWords_byteAt _ _ _ _ _ hk

/-- Settles O18: each case is a branch of the command, and the history is what `Capture(c)` writes. -/
theorem captureCommand : Obligations.CaptureCommand := by
  intro c s
  refine ⟨exec_capture_busy c,
    fun hr h => exec_capture_unconfigured hr ((s.stagerConfigured_eq_false_iff c).mpr h),
    fun hr hc hcfg hb hb' _ ht => ?_⟩
  have hh : s.histLen c ≤ 4095 := State.histLen_le ht
  refine ⟨_, exec_capture_legal hr (State.stagerConfigured_of_legal hc hcfg hb hb') (stagerMapped_of_legal _ _ _ hc hh hb'),
    fun i hi => ?_, fun k hk => ?_⟩
  · exact captureWords_history _ _ _ _ (by omega) (by omega) hb' i hi
  · exact captureWords_byteAt _ _ _ _ _ hk

/-! ## The stream in the window (R155) -/

/-- The stream `x` after a delay of `h` samples, with zeros before its start. -/
def delayedSample (h : Nat) (x : Nat → Word) (n : Nat) : Word := if n < h then 0 else x (n - h)

section Stream

variable {c h b t : Nat} {x : Nat → Word} {m : Memory} (hc : c < 16) (hh : h ≤ 4095) (hb : b ≤ 4096)
include hc hh hb

/-- A history and a block that follow each other in the stream make a window of it. -/
theorem stageWords_holds_stream
    (hhist : ∀ i, i < h → m.readWord (unitStride (Region.hist.base c) i) = delayedSample h x (t + i))
    (hblock : ∀ j, j < b → m.readWord (unitStride (Region.csb.base c) j) = x (t + j)) (i : Nat) (hi : i < b + h) :
    (stageWords c h b m).readWord (unitStride (Region.win.base c) i) = delayedSample h x (t + i) := by
  by_cases hih : i < h
  · rw [stageWords_history c h b m (by omega) (by omega) hb i hih, hhist i hih]
  · obtain ⟨j, rfl⟩ := Nat.exists_eq_add_of_le (Nat.le_of_not_lt hih)
    rw [stageWords_block c h b m (by omega) (by omega) hb j (by omega), hblock j (by omega), delayedSample, if_neg (by omega)]
    congr 1
    omega

/-- The history captured from a window of the stream belongs `b` samples later. -/
theorem captureWords_holds_stream
    (hwin : ∀ i, i < b + h → m.readWord (unitStride (Region.win.base c) i) = delayedSample h x (t + i)) (i : Nat)
    (hi : i < h) :
    (captureWords c h b m).readWord (unitStride (Region.hist.base c) i) = delayedSample h x (t + b + i) := by
  rw [captureWords_history c h b m (by omega) (by omega) hb i hi, hwin (b + i) (by omega), Nat.add_assoc]

end Stream

/-- Settles O19, by induction on the cycle: its history is the stream just before its block. -/
theorem windowHoldsTheStream : Obligations.WindowHoldsTheStream := by
  intro c h b x start hc hh _ hb hzero hblock hnext k
  have hwindow := fun n hhist => stageWords_holds_stream hc hh hb (x := x) (t := n * b) (m := start n) hhist (hblock n)
  have hhistory : ∀ i, i < h → (start k).readWord (unitStride (Region.hist.base c) i) = delayedSample h x (k * b + i) := by
    induction k with
    | zero =>
      intro i hi
      rw [hzero i hi, delayedSample, if_pos (by omega)]
    | succ k ih =>
      intro i hi
      rw [hnext k i hi, captureWords_holds_stream hc hh hb (hwindow k ih) i hi, Nat.succ_mul]
  exact hwindow k hhistory

/-! ## Channels are independent (R157) -/

/-- Writes of different words commute. -/
theorem Memory.writeWord_comm {m : Memory} (hm : m.wf = true) {a a' : Word} (h : a ≠ a') (v v' : Word) :
    (m.writeWord a' v').writeWord a v = (m.writeWord a v).writeWord a' v' := by
  refine Memory.eq_of_byteAt _ _ (Memory.wf_writeWord _ _ _ (Memory.wf_writeWord _ _ _ hm))
    (Memory.wf_writeWord _ _ _ (Memory.wf_writeWord _ _ _ hm)) fun k => ?_
  have hne : a.toNat ≠ a'.toNat := fun e => h (BitVec.eq_of_toNat_eq e)
  simp only [Memory.byteAt_writeWord]
  split_ifs with hk hk'
  · omega
  · rfl
  · rfl
  · rfl

/-- A loop commutes with what each of its passes commutes with. -/
theorem iterUp_comm {α : Type} (P : α → Prop) (n : Nat) (f : Nat → α → α) (g : α → α) (hf : ∀ i x, P x → P (f i x))
    (hfg : ∀ i x, i < n → P x → f i (g x) = g (f i x)) (a : α) (ha : P a) : iterUp n f (g a) = g (iterUp n f a) := by
  induction n with
  | zero => rfl
  | succ n ih =>
    rw [iterUp_succ, iterUp_succ, ih fun i x hi => hfg i x (Nat.lt_succ_of_lt hi)]
    exact hfg n _ (Nat.lt_succ_self n) (iterUp_keeps P n f a ha fun i x _ => hf i x)

/-- The `n` addresses from `a` lie in unit `c` of their regions (`20_memory.md` R70). -/
def RunInUnit (c : Nat) (a : Word) (n : Nat) : Prop := ∀ i, i < n → addrUnit (unitStride a i) = c

theorem addr_ne_of_unit {c d : Nat} {a a' : Word} (h : addrUnit a = c) (h' : addrUnit a' = d) (hcd : c ≠ d) : a ≠ a' :=
  fun e => hcd (h.symm.trans ((congrArg addrUnit e).trans h'))

/-- Offsets of a unit's buffer stay in the unit. -/
theorem Region.runInUnit_offset (r : Region) {u o n : Nat} (hu : u < 256) (hn : o + n ≤ 0x10000) :
    RunInUnit u (unitStride (r.base u) o) n := fun i hi => by
  rw [unitStride_unitStride, addrUnit_eq, r.toNat_base u _ hu (by omega), address_unit _ _ _ hu (by omega)]

theorem Region.runInUnit_base (r : Region) {u n : Nat} (hu : u < 256) (hn : n ≤ 0x10000) : RunInUnit u (r.base u) n :=
  unitStride_zero (r.base u) ▸ r.runInUnit_offset hu (by omega)

/-- One pass of a copy. -/
def copyWord (dst src : Word) (m : Memory) : Memory := m.writeWord dst (m.readWord src)

theorem copyWords_eq_copyWord (dst src : Word) (n : Nat) (m : Memory) :
    copyWords dst src n m = iterUp n (fun i => copyWord (unitStride dst i) (unitStride src i)) m := rfl

theorem copyWord_wf (dst src : Word) {m : Memory} (hm : m.wf = true) : (copyWord dst src m).wf = true :=
  Memory.wf_writeWord _ _ _ hm

/-- Two passes commute when neither writes what the other reads or writes. -/
theorem copyWord_comm {dst src dst' src' : Word} (h : dst ≠ dst') (h₁ : dst ≠ src') (h₂ : dst' ≠ src) {m : Memory}
    (hm : m.wf = true) : copyWord dst src (copyWord dst' src' m) = copyWord dst' src' (copyWord dst src m) := by
  simp only [copyWord]
  rw [Memory.readWord_writeWord_of_ne _ _ _ _ h₁, Memory.readWord_writeWord_of_ne _ _ _ _ h₂, Memory.writeWord_comm hm h]

/-- A pass in one unit commutes with a copy in another. -/
theorem copyWord_copyWords_comm {c d : Nat} (hcd : c ≠ d) {dst src dst' src' : Word} {n' : Nat} (hdst : addrUnit dst = c)
    (hsrc : addrUnit src = c) (hdst' : RunInUnit d dst' n') (hsrc' : RunInUnit d src' n') {m : Memory} (hm : m.wf = true) :
    copyWord dst src (copyWords dst' src' n' m) = copyWords dst' src' n' (copyWord dst src m) := by
  rw [copyWords_eq_copyWord, copyWords_eq_copyWord]
  exact (iterUp_comm (Memory.wf · = true) n' _ (copyWord dst src) (fun _ _ => copyWord_wf _ _)
    (fun j _ hj hx => copyWord_comm (addr_ne_of_unit (hdst' j hj) hdst hcd.symm) (addr_ne_of_unit (hdst' j hj) hsrc hcd.symm)
      (addr_ne_of_unit hdst (hsrc' j hj) hcd) hx) m hm).symm

/-- Copies within different units commute. -/
theorem copyWords_comm {c d : Nat} (hcd : c ≠ d) {dst src dst' src' : Word} {n n' : Nat} (hdst : RunInUnit c dst n)
    (hsrc : RunInUnit c src n) (hdst' : RunInUnit d dst' n') (hsrc' : RunInUnit d src' n') {m : Memory} (hm : m.wf = true) :
    copyWords dst src n (copyWords dst' src' n' m) = copyWords dst' src' n' (copyWords dst src n m) := by
  rw [copyWords_eq_copyWord dst src, copyWords_eq_copyWord dst src]
  exact iterUp_comm (Memory.wf · = true) n _ (copyWords dst' src' n') (fun _ _ => copyWord_wf _ _)
    (fun i _ hi hx => copyWord_copyWords_comm hcd (hdst i hi) (hsrc i hi) hdst' hsrc' hx) m hm

/-- An operation made of copies within unit `c`. -/
inductive CopiesInUnit (c : Nat) : (Memory → Memory) → Prop where
  | copy {dst src : Word} {n : Nat} (hdst : RunInUnit c dst n) (hsrc : RunInUnit c src n) : CopiesInUnit c (copyWords dst src n)
  | comp {f g : Memory → Memory} (hf : CopiesInUnit c f) (hg : CopiesInUnit c g) : CopiesInUnit c (fun m => f (g m))

theorem CopiesInUnit.wf {c : Nat} {f : Memory → Memory} (hf : CopiesInUnit c f) {m : Memory} (hm : m.wf = true) :
    (f m).wf = true := by
  induction hf generalizing m with
  | copy _ _ => exact copyWords_wf _ _ _ _ hm
  | comp _ _ ihf ihg => exact ihf (ihg hm)

/-- Operations within different units commute. -/
theorem CopiesInUnit.comm {c d : Nat} (hcd : c ≠ d) {f g : Memory → Memory} (hf : CopiesInUnit c f) (hg : CopiesInUnit d g)
    {m : Memory} (hm : m.wf = true) : f (g m) = g (f m) := by
  induction hf generalizing m with
  | copy hdst hsrc =>
    induction hg generalizing m with
    | copy hdst' hsrc' => exact copyWords_comm hcd hdst hsrc hdst' hsrc' hm
    | comp _ hg₂ ih₁ ih₂ => rw [ih₁ (hg₂.wf hm), ih₂ hm]
  | comp _ hf₂ ih₁ ih₂ => exact (congrArg _ (ih₂ hm)).trans (ih₁ (hf₂.wf hm))

theorem stageWords_copiesInUnit {c h b : Nat} (hc : c < 16) (hh : h ≤ 4095) (hb : b ≤ 4096) :
    CopiesInUnit c (stageWords c h b) := by
  have history : CopiesInUnit c (copyWords (Region.win.base c) (Region.hist.base c) h) :=
    .copy (Region.win.runInUnit_base (by omega) (by omega)) (Region.hist.runInUnit_base (by omega) (by omega))
  have block : CopiesInUnit c (copyWords (unitStride (Region.win.base c) h) (Region.csb.base c) b) :=
    .copy (Region.win.runInUnit_offset (by omega) (by omega)) (Region.csb.runInUnit_base (by omega) (by omega))
  exact block.comp history

theorem captureWords_copiesInUnit {c h b : Nat} (hc : c < 16) (hh : h ≤ 4095) (hb : b ≤ 4096) :
    CopiesInUnit c (captureWords c h b) :=
  .copy (Region.hist.runInUnit_base (by omega) (by omega)) (Region.win.runInUnit_offset (by omega) (by omega))

/-- Settles O20: a stager operation is made of copies within the unit of its channel. -/
theorem stagerChannelsCommute : Obligations.StagerChannelsCommute := by
  intro c d h h' b m hm hc hd hcd hh hh' hb
  have hstage := stageWords_copiesInUnit hc hh hb
  have hcapture' := captureWords_copiesInUnit hd hh' hb
  exact ⟨hstage.comm hcd (stageWords_copiesInUnit hd hh' hb) hm,
    (captureWords_copiesInUnit hc hh hb).comm hcd hcapture' hm, hstage.comm hcd hcapture' hm⟩

end Sys2Proof.Machine
end

section
/-! The convolution of the FIR engine (`42_fir_engine.md` R169) and its identity filter (R171). -/

namespace Sys2Proof.Machine

/-! ## The ordered sum (R169) -/

/-- The ascending loop is the left fold over the passes. -/
theorem iterUp_eq_foldl {α : Type} (n : Nat) (f : Nat → α → α) (a : α) :
    iterUp n f a = (List.range n).foldl (fun x i => f i x) a := by
  induction n with
  | zero => rfl
  | succ n ih => rw [iterUp_succ, ih, List.range_succ, List.foldl_append, List.foldl_cons, List.foldl_nil]

/-- Settles O23: the loop of `FirDot` is that fold. -/
theorem firDotIsTheOrderedSum : Obligations.FirDotIsTheOrderedSum :=
  fun _ _ _ => iterUp_eq_foldl ..

/-! ## What a finite word rounds to (R14) -/

/-- The two fields of a magnitude as one significand `q` at scale `2^t`, which uses all 24 bits unless `t = 0`. -/
theorem f32Mag_eq_mul_pow (w : Word) :
    ∃ q t, q < 2 ^ 24 ∧ (t = 0 ∨ 2 ^ 23 ≤ q) ∧ f32Mag w = q * 2 ^ t ∧ w.toNat % 2 ^ 31 = t * 2 ^ 23 + q := by
  have hexp := f32Exp_eq w
  have hfrac := f32Frac_eq w
  by_cases he : f32Exp w = 0
  · exact ⟨f32Frac w, 0, by omega, .inl rfl, by rw [f32Mag, if_pos he, pow_zero, Nat.mul_one], by omega⟩
  · exact ⟨2 ^ 23 + f32Frac w, f32Exp w - 1, by omega, .inr (by omega), by rw [f32Mag, if_neg he], by omega⟩

theorem f32IsFinite_iff_bits (w : Word) : f32IsFinite w = true ↔ w.toNat % 2 ^ 31 < 0x7F800000 := by
  have hexp := f32Exp_eq w
  rw [f32IsFinite, bne_iff_ne]
  omega

/-- The value of a finite word rounds to that word, whatever the unit `2^(-149 - k)` it is given in. -/
theorem f32Round_mag_mul_pow {w : Word} (hw : f32IsFinite w = true) (k : Nat) :
    f32Round (f32Sign w) (f32Mag w * 2 ^ k) k = w := by
  obtain ⟨q, t, hq, hfull, hmag, hbits⟩ := f32Mag_eq_mul_pow w
  have hn : f32Mag w * 2 ^ k = q * 2 ^ (k + t) := by rw [hmag]; ring
  obtain ⟨e, hscale, hround⟩ := f32RoundBits_eq (q * 2 ^ (k + t)) k
  have het : e = t := by
    refine (hscale.le_of_lt (Nat.mul_lt_mul_of_pos_right hq (Nat.two_pow_pos _))).antisymm ?_
    rcases hfull with rfl | hfull
    · exact Nat.zero_le e
    · exact hscale.ge_of_le (Nat.mul_le_mul_right _ hfull)
  have hfin := (f32IsFinite_iff_bits w).mp hw
  rw [hn, f32Round, hround, het, rneDiv_mul _ _ (Nat.two_pow_pos _), ← hbits, min_eq_right hfin.le, f32Pack_self]

/-! ## `0.0` and `1.0` in products and sums (R14) -/

theorem f32Mul_one {w : Word} (hw : f32IsFinite w = true) : f32Mul 0x3F800000 w = w := by
  have hone : f32Mag 0x3F800000 = 2 ^ 149 := by decide
  have hsign : f32Sign 0x3F800000 = false := by decide
  rw [f32Mul_finite (by decide) hw, hone, hsign, Bool.false_bne, Nat.mul_comm]
  exact f32Round_mag_mul_pow hw 149

theorem f32Mul_zero {w : Word} (hw : f32IsFinite w = true) : f32Mul 0 w = f32Pack (f32Sign w) 0 := by
  have hmag : f32Mag 0 = 0 := by decide
  have hsign : f32Sign 0 = false := by decide
  have hround : f32RoundBits 0 149 = 0 := by decide
  rw [f32Mul_finite (by decide) hw, hmag, hsign, Bool.false_bne, Nat.zero_mul, f32Round, hround]

theorem f32Pack_zero_add (sign : Bool) : f32Add 0 (f32Pack sign 0) = 0 := by cases sign <;> decide

/-- A sum from `+0.0` keeps a finite word, except that `-0.0` becomes `+0.0`. -/
theorem f32Add_zero {w : Word} (hw : f32IsFinite w = true) : f32Add 0 w = if w = 0x80000000 then 0 else w := by
  by_cases hmag : f32Mag w = 0
  · rw [eq_f32Pack_zero_of_mag hmag, f32Pack_zero_add]
    cases f32Sign w <;> decide
  · have hne : w ≠ 0x80000000 := by
      rintro rfl
      exact hmag (by decide)
    have hzero : f32Units 0 = 0 := by decide
    have hneg : decide (f32Units w < 0) = f32Sign w := by
      cases hs : f32Sign w <;> simp [f32Units, hs, Nat.pos_iff_ne_zero, hmag]
    have habs : (f32Units w).natAbs = f32Mag w * 2 ^ 0 := by
      rw [f32Units]
      split <;> omega
    rw [f32Add_finite (by decide) hw, hzero, Int.zero_add, if_neg (by omega), if_neg hne, hneg, habs]
    exact f32Round_mag_mul_pow hw 0

/-- Settles O24: the zero coefficients leave the sum at `+0.0`, the last product is the newest sample. -/
theorem identityFilterReturnsNewestSample : Obligations.IdentityFilterReturnsNewestSample := by
  intro m d n htaps hcoef hfin
  obtain ⟨k, hk⟩ : ∃ k, d.taps = k + 1 := ⟨d.taps - 1, by omega⟩
  rw [hk] at hcoef hfin
  rw [firDot, hk, iterUp_succ, iterUp_keeps (· = 0) k _ 0 rfl]
  · have hlast : m.readWord (reversedCoef d.coefIndex k) = 0x3F800000 := (hcoef k k.lt_succ_self).trans (if_pos rfl)
    have hw := hfin k k.lt_succ_self
    rw [hlast, circularWindow, f32Mul_one hw, f32Add_zero hw]
    rfl
  · rintro j _ hj rfl
    have hzero : m.readWord (reversedCoef d.coefIndex j) = 0 := 
      (hcoef j (hj.trans k.lt_succ_self)).trans (if_neg (by omega))
    have hw := hfin j (hj.trans k.lt_succ_self)
    rw [hzero, circularWindow, f32Mul_zero hw, f32Pack_zero_add]

end Sys2Proof.Machine
end

section
/-! Validity of a descriptor (`42_fir_engine.md` R172) and of a chain (R173), condition by condition. -/

namespace Sys2Proof.Machine

/-! ## The control word's fields (`30_encoding.md` R105) -/

theorem JobDescriptor.taps_eq (d : JobDescriptor) : d.taps = d.ctrl.toNat % 2 ^ 16 := by
  rw [JobDescriptor.taps, BitVec.extractLsb'_toNat, Nat.shiftRight_zero]

theorem JobDescriptor.wexp_eq (d : JobDescriptor) : d.wexp = d.ctrl.toNat / 2 ^ 16 % 2 ^ 5 := by
  rw [JobDescriptor.wexp, BitVec.extractLsb'_toNat, Nat.shiftRight_eq_div_pow]

theorem JobDescriptor.reserved_eq_zero_iff (d : JobDescriptor) :
    d.reserved = 0 ↔ ∀ b, 21 ≤ b → b ≤ 29 → d.ctrl.getLsbD b = false := by
  constructor
  · intro h b hlo hhi
    have hbit := congrArg (BitVec.getLsbD · (b - 21)) h
    simpa [JobDescriptor.reserved, show b - 21 < 9 by omega, show 21 + (b - 21) = b by omega] using hbit
  · intro h
    apply BitVec.eq_of_getLsbD_eq
    intro i hi
    simp [JobDescriptor.reserved, hi, h (21 + i) (by omega) (by omega)]

/-! ## `DescValid` (R172) -/

/-- V2 to V8. -/
theorem JobDescriptor.fieldsValid_iff (d : JobDescriptor) :
    d.fieldsValid = true ↔
      d.reserved = 0 ∧ (1 ≤ d.taps ∧ d.taps ≤ 4096) ∧ d.coefLen.toNat = d.taps ∧
        d.coefIndex = d.coefBase + d.coefLen - 1 ∧ (1 ≤ d.outLen.toNat ∧ d.outLen.toNat ≤ 4096) ∧
        d.inLen.toNat = d.outLen.toNat + d.taps - 1 ∧ d.wexp = clog2 d.outLen.toNat := by
  have hindex (h : d.coefLen.toNat = d.taps) : BitVec.ofNat 32 d.taps = d.coefLen := by
    rw [← h, BitVec.ofNat_toNat, BitVec.setWidth_eq]
  simp only [JobDescriptor.fieldsValid, Bool.and_eq_true, decide_eq_true_eq, inRange_iff, and_assoc]
  refine and_congr_right fun _ => and_congr_right fun _ => and_congr_right fun _ => and_congr_right fun hlen => ?_
  rw [hindex hlen]
  rfl

/-- V9 to V11, of a descriptor whose ranges are not empty. -/
theorem JobDescriptor.rangesValid_iff {d : JobDescriptor} (a : Word) (htaps : 1 ≤ d.taps) (hin : 1 ≤ d.inLen.toNat)
    (hout : 1 ≤ d.outLen.toNat) :
    d.rangesValid a = true ↔
      (∀ k, k < d.taps → mapped (unitStride d.coefBase k) = true) ∧
      (∀ i, i < d.inLen.toNat → mapped (unitStride d.inBase i) = true) ∧
      (∀ n, n < d.outLen.toNat → mapped (unitStride d.outBase n) = true) ∧
      (∀ n, n < d.outLen.toNat →
        (∀ i, i < d.inLen.toNat → unitStride d.outBase n ≠ unitStride d.inBase i) ∧
        (∀ k, k < d.taps → unitStride d.outBase n ≠ unitStride d.coefBase k) ∧
        (∀ k, k < 9 → unitStride d.outBase n ≠ unitStride a k)) := by
  simp only [JobDescriptor.rangesValid, Bool.and_eq_true, mappedRange_iff, runsDisjoint_iff _ _ _ _ hout hin,
    runsDisjoint_iff _ _ _ _ hout htaps, runsDisjoint_iff _ _ _ 9 hout (by decide), and_assoc, imp_and, forall_and]

/-- V1, then V2 to V8, then V9 to V11. -/
theorem descValid_iff (m : Memory) (a : Word) :
    descValid m a = true ↔
      (a ≠ 0 ∧ ∀ k, k < 9 → mapped (unitStride a k) = true) ∧
        (m.descriptor a).fieldsValid = true ∧ (m.descriptor a).rangesValid a = true := by
  simp only [descValid, Bool.and_eq_true, decide_eq_true_eq, mappedRange_iff]

/-- Settles O25: the fields of a valid descriptor are not empty, so its range check is the disjointness of V10 and V11. -/
theorem descValidIsV1ToV11 : Obligations.DescValidIsV1ToV11 := by
  intro m a
  rw [descValid_iff, JobDescriptor.fieldsValid_iff]
  simp only [← JobDescriptor.taps_eq, ← JobDescriptor.wexp_eq, ← JobDescriptor.reserved_eq_zero_iff, and_assoc]
  refine and_congr_right fun _ => and_congr_right fun _ => and_congr_right fun _ => and_congr_right fun htaps =>
    and_congr_right fun _ => and_congr_right fun _ => and_congr_right fun _ => and_congr_right fun hout =>
    and_congr_right fun _ => and_congr_right fun hin => and_congr_right fun _ => ?_
  exact JobDescriptor.rangesValid_iff a htaps (by omega) hout

/-! ## `ChainValid` (R173) -/

/-- The walk of `NEXT` links from a head is the only one. -/
theorem eq_chainAddr {m : Memory} {h : Word} {d : Nat → Word} (h0 : d 0 = h) (hnext : ∀ i, d (i + 1) = m.readWord (d i)) :
    d = chainAddr m h := by
  funext i
  induction i with
  | zero => exact h0
  | succ i ih => rw [hnext, ih, chainAddr]

/-- A condition on every address of a chain, by position. -/
theorem chainAddrs_all_iff (m : Memory) (h : Word) (n : Nat) (p : Word → Bool) :
    (chainAddrs m h n).all p = true ↔ ∀ i, i < n → p (chainAddr m h i) = true := by
  simp only [chainAddrs_eq, List.all_map, List.all_eq_true, List.mem_range, Function.comp_apply]

/-- C6: no address twice. -/
theorem chainAddrs_nodup_iff (m : Memory) (h : Word) (n : Nat) :
    (chainAddrs m h n).Nodup ↔ ∀ i j, i < n → j < n → chainAddr m h i = chainAddr m h j → i = j := by
  rw [chainAddrs_eq, List.nodup_map_iff_inj_on List.nodup_range]
  simp only [List.mem_range]
  exact ⟨fun hinj i j hi hj => hinj i hi j hj, fun hinj i hi j hj => hinj i j hi hj⟩

/-- C1 to C6 along the walk. -/
theorem chainValid_iff (s : State) (h : Word) :
    s.chainValid h = true ↔
      (1 ≤ s.nch.toNat ∧ s.nch.toNat ≤ 16) ∧
      (∀ i, i < s.nch.toNat → descValid s.mem (chainAddr s.mem h i) = true) ∧
      (∀ i, i < s.nch.toNat →
        (s.mem.descriptor (chainAddr s.mem h i)).ai = (s.mem.descriptor h).ai ∧
          (s.mem.descriptor (chainAddr s.mem h i)).ci = (s.mem.descriptor h).ci) ∧
      (chainAddr s.mem h s.nch.toNat = h ∨
        (chainAddr s.mem h s.nch.toNat = 0 ∧ (s.mem.descriptor h).ai = false)) ∧
      ((s.mem.descriptor h).ai = true → 1 ≤ s.iter.toNat) ∧
      (∀ i j, i < s.nch.toNat → j < s.nch.toNat → chainAddr s.mem h i = chainAddr s.mem h j → i = j) := by
  simp only [State.chainValid, State.nchLegal, Bool.and_eq_true, Bool.or_eq_true, inRange_iff, chainAddrs_all_iff, beq_iff_eq,
    decide_eq_true_eq, Bool.not_eq_true', chainAddrs_nodup_iff, and_assoc, ← Bool.not_eq_true, ← imp_iff_not_or]
  rfl

/-- Settles O26: the walk the statement speaks of is `chainAddr`. -/
theorem chainValidIsC1ToC6 : Obligations.ChainValidIsC1ToC6 := by
  intro s h
  rw [chainValid_iff, and_assoc]
  constructor
  · exact fun hc => ⟨chainAddr s.mem h, rfl, fun _ => rfl, hc⟩
  · rintro ⟨d, h0, hnext, hc⟩
    obtain rfl := eq_chainAddr h0 hnext
    exact hc

end Sys2Proof.Machine
end

section
/-! `CONFIGURE` (`42_fir_engine.md` R166, R167): its checks, the descriptor it builds and the history it clears. -/

namespace Sys2Proof.Machine

/-! ## The control word (`30_encoding.md` R105) -/

/-- A concatenation as a number: the high part above the width of the low part. -/
theorem toNat_append_eq {m n : Nat} (x : BitVec m) (y : BitVec n) : (x ++ y).toNat = x.toNat * 2 ^ n + y.toNat := by
  rw [BitVec.toNat_append, ← Nat.shiftLeft_add_eq_or_of_lt y.isLt, Nat.shiftLeft_eq]

/-- The control word of fields that fit, as a number. -/
theorem controlWord_toNat (ci ai : Bool) {wexp taps : Nat} (hw : wexp < 2 ^ 5) (ht : taps < 2 ^ 16) :
    (controlWord ci ai wexp taps).toNat = ci.toNat * 2 ^ 31 + ai.toNat * 2 ^ 30 + wexp * 2 ^ 16 + taps := by
  simp only [controlWord, toNat_append_eq, BitVec.toNat_ofBool, BitVec.toNat_ofNat, Nat.mod_eq_of_lt hw,
    Nat.mod_eq_of_lt ht]
  omega

/-! ## What the command writes (R167) -/

/-- The memory `CONFIGURE c` leaves: the nine words of the descriptor `d`, then `h` zero words of history. -/
def configureWords (c h : Nat) (d : JobDescriptor) (m : Memory) : Memory :=
  zeroWords (Region.hist.base c) h (writeWords m (Region.desc.base c) d.words)

section ConfigureWords

variable {c h : Nat} (d : JobDescriptor) (m : Memory)

theorem configureWords_descriptor (hc : c < 256) (hh : h ≤ 4096) (i : Nat) (hi : i < 9) :
    (configureWords c h d m).readWord (unitStride (Region.desc.base c) i) = d.words[i]'hi := by
  rw [configureWords, zeroWords_eq, writeLoop_readWord_of_ne h _ (fun _ _ => 0) _ _ fun j hj =>
    Region.base_ne .hist .desc c c j i (by decide) hc hc (by omega) (by omega)]
  exact writeWords_readWord m _ d.words (Nat.le_of_ble_eq_true rfl) i hi

theorem configureWords_history (hc : c < 256) (hh : h ≤ 4096) (i : Nat) (hi : i < h) :
    (configureWords c h d m).readWord (unitStride (Region.hist.base c) i) = 0 :=
  writeLoop_readWord h (unitStride (Region.hist.base c)) (fun _ _ => 0) _ i hi fun j hij hj =>
    Region.base_ne_offset .hist c j i hij.ne' hc (by omega) (by omega)

theorem configureWords_byteAt (k : Nat) (hd : ∀ i, i < 9 → k / 4 ≠ (unitStride (Region.desc.base c) i).toNat)
    (hh : ∀ i, i < h → k / 4 ≠ (unitStride (Region.hist.base c) i).toNat) :
    (configureWords c h d m).byteAt k = m.byteAt k :=
  (writeLoop_byteAt h _ (fun _ _ => 0) _ k hh).trans (writeWords_byteAt m _ d.words k hd)

end ConfigureWords

/-! ## The command, case by case (R166) -/

/-- The operands that `CONFIGURE` rejects. -/
theorem configureLegal_eq_false_iff (s : State) (c : Nat) :
    s.configureLegal c = false ↔
      s.nch.toNat = 0 ∨ 16 < s.nch.toNat ∨ s.nch.toNat ≤ c ∨ s.arg1.toNat = 0 ∨ 4096 < s.arg1.toNat ∨ s.arg2.toNat = 0 ∨
        4096 < s.arg2.toNat := by
  rw [← Bool.not_eq_true, configureLegal_iff, Config.maxCh, Config.maxTaps, Config.maxB]
  omega

theorem mappedRange_eq_false_iff (a : Word) (n : Nat) :
    mappedRange a n = false ↔ ∃ i, i < n ∧ mapped (unitStride a i) = false :=
  allBelow_eq_false_iff n _

theorem exec_configure (c : Nat) (s : State) : exec (.configure c) s = execConfigure c s := rfl

theorem exec_configure_busy {s : State} (c : Nat) (h : s.run = true ∨ s.accelBusy = true) :
    exec (.configure c) s = .next { s with status := .errBusy, res := 0 } := by
  rw [exec_configure, execConfigure, if_pos (by simpa using h)]
  rfl

theorem exec_configure_illegal {s : State} {c : Nat} (hr : s.run = false) (ha : s.accelBusy = false)
    (hl : s.configureLegal c = false) :
    exec (.configure c) s = .next { s with status := .errConfig, res := 0, cfgError := true } := by
  rw [exec_configure, execConfigure, if_neg (by simp [hr, ha]), if_pos (by simp [hl])]
  rfl

theorem exec_configure_unmapped {s : State} {c : Nat} (hr : s.run = false) (ha : s.accelBusy = false)
    (hl : s.configureLegal c = true) (hm : mappedRange s.arg0 s.arg1.toNat = false) :
    exec (.configure c) s = .next { s with status := .errBus, res := 0, busFault := true } := by
  rw [exec_configure, execConfigure, if_neg (by simp [hr, ha]), if_neg (by simp [hl]), if_pos (by simp [hm])]
  rfl

/-- The state `CONFIGURE c` completes in. -/
def State.afterConfigure (s : State) (c : Nat) : State :=
  { s with
    chcfg := s.chcfg.setIfInBounds c ⟨s.arg1.setWidth 16, true⟩
    mem := configureWords c (s.arg1.toNat - 1) (s.builtDescriptor c s.arg0 s.arg1 s.arg2) s.mem
    status := .ok
    res := 0 }

theorem exec_configure_legal {s : State} {c : Nat} (hr : s.run = false) (ha : s.accelBusy = false)
    (hl : s.configureLegal c = true) (hm : mappedRange s.arg0 s.arg1.toNat = true) :
    exec (.configure c) s = .next (s.afterConfigure c) := by
  rw [exec_configure, execConfigure, if_neg (by simp [hr, ha]), if_neg (by simp [hl]), if_neg (by simp [hm])]
  rfl

theorem afterConfigure_chan (s : State) {c : Nat} (hc : c < 16) (d : Nat) :
    (s.afterConfigure c).chan d = if c = d then ⟨s.arg1.setWidth 16, true⟩ else s.chan d := by
  have hset : (s.afterConfigure c).chan d = (s.setChan c (s.arg1.setWidth 16)).chan d := rfl
  simp only [hset, State.setChan_chan, and_iff_left (show c < Config.maxCh from hc)]

/-- The control word of the built descriptor: `CI = 1`, `AI = 1` in offline validation, `WEXP`, `TAPS`. -/
theorem builtDescriptor_ctrl_toNat (s : State) (c : Nat) (coef : Word) {taps bs : Word} (ht : taps.toNat ≤ 4096)
    (hb : bs.toNat ≤ 4096) :
    (s.builtDescriptor c coef taps bs).ctrl.toNat =
      2 ^ 31 + (if s.mode = .offlineValidation then 2 ^ 30 else 0) + clog2 bs.toNat * 2 ^ 16 + taps.toNat := by
  have hexp : clog2 bs.toNat ≤ 12 := (clog2_le_iff _ _).mpr hb
  rw [State.builtDescriptor, controlWord_toNat _ _ (by omega) (by omega)]
  cases s.mode <;> rfl

/-- Settles O21: each case is a branch of the command, and the memory it leaves is `configureWords`. -/
theorem configureCommand : Obligations.ConfigureCommand := by
  intro c s
  refine ⟨exec_configure_busy c,
    fun hr ha hl => exec_configure_illegal hr ha ((configureLegal_eq_false_iff s c).mpr hl),
    fun hr ha hc hn ht ht' hb hb' => ?_⟩
  have hl : s.configureLegal c = true := (configureLegal_iff s c).mpr ⟨⟨by omega, hn⟩, hc, ⟨ht, ht'⟩, hb, hb'⟩
  have hword (i : Nat) (hi : i < 9) := configureWords_descriptor (c := c) (h := s.arg1.toNat - 1)
    (s.builtDescriptor c s.arg0 s.arg1 s.arg2) s.mem (by omega) (by omega) i hi
  refine ⟨fun hm => exec_configure_unmapped hr ha hl ((mappedRange_eq_false_iff _ _).mpr hm), fun hm =>
    ⟨s.afterConfigure c, exec_configure_legal hr ha hl ((mappedRange_iff _ _).mpr hm), rfl, ?configured, ?taps, ?others,
      hword 0 (by decide), hword 1 (by decide), hword 2 (by decide), hword 3 (by decide), hword 4 (by decide),
      hword 5 (by decide), hword 6 (by decide), hword 7 (by decide), ?ctrl, ?history, ?frame⟩⟩
  case configured => rw [afterConfigure_chan s (by omega), if_pos rfl]
  case taps => rw [afterConfigure_chan s (by omega), if_pos rfl, toNat_setWidth_taps ht']
  case others => exact fun d hd => by rw [afterConfigure_chan s (by omega), if_neg hd.symm]
  case ctrl => exact (congrArg BitVec.toNat (hword 8 (by decide))).trans (builtDescriptor_ctrl_toNat s c s.arg0 ht' hb')
  case history => exact configureWords_history _ _ (by omega) (by omega)
  case frame => exact configureWords_byteAt _ _

end Sys2Proof.Machine
end

section
/-! The accelerator's job (`42_fir_engine.md`): `DISPATCH` (R174 to R177), `ISDONE` and `WAITDONE` (R180, R181), and the step
X1 (R190, R191). -/

namespace Sys2Proof.Machine

/-! ## `DISPATCH` (R174 to R177) -/

theorem exec_dispatch (s : State) : exec .dispatch s = execDispatch s := rfl

theorem exec_dispatch_busy {s : State} (hr : s.run = true) :
    exec .dispatch s = .next { s with status := .errBusy, res := 0 } := by
  rw [exec_dispatch, execDispatch, if_pos hr]
  rfl

/-- An earlier job runs, or its completion is not observed: overrun (R175). -/
theorem dispatchJob_of_pending {s : State} (h : s.accelBusy = true ∨ s.filterDone = true) :
    s.dispatchJob = (.errOverrun, { s with overrunCount := satInc s.overrunCount }) := by
  obtain ⟨-, e⟩ | ⟨hb, hd, -⟩ | ⟨hb, hd, -⟩ := s.dispatchJob_cases
  · exact e
  all_goals simp [hb, hd] at h

/-- The chain is not valid (R177). -/
theorem dispatchJob_of_invalid {s : State} (hb : s.accelBusy = false) (hd : s.filterDone = false)
    (hv : s.chainValid s.firHead = false) : s.dispatchJob = (.errConfig, { s with cfgError := true }) := by
  obtain ⟨hp, -⟩ | ⟨-, -, hv', -⟩ | ⟨-, -, -, e⟩ := s.dispatchJob_cases
  · simp [hb, hd] at hp
  · simp [hv] at hv'
  · exact e

/-- The job is armed with the head descriptor (R176). -/
theorem dispatchJob_of_valid {s : State} (hb : s.accelBusy = false) (hd : s.filterDone = false)
    (hv : s.chainValid s.firHead = true) :
    s.dispatchJob = (.ok, { s with
      jobCI := (s.mem.descriptor s.firHead).ci
      jobAI := (s.mem.descriptor s.firHead).ai
      cp := s.firHead
      descLeft := s.nch.toNat
      lapsLeft := if (s.mem.descriptor s.firHead).ai then s.iter else 1
      accelBusy := true }) := by
  obtain ⟨hp, -⟩ | ⟨-, -, -, e⟩ | ⟨-, -, hv', -⟩ := s.dispatchJob_cases
  · simp [hb, hd] at hp
  · exact e
  · simp [hv] at hv'

/-- Settles O27: the command ends with what `Dispatch()` did. -/
theorem dispatchCommand : Obligations.DispatchCommand := by
  intro s
  refine ⟨exec_dispatch_busy, fun hr hp => ?overrun, fun hr hb hd hv => ?invalid, fun hr hb hd hv => ?armed⟩
  all_goals rw [exec_dispatch, execDispatch, if_neg (by simp [hr])]
  case overrun => rw [dispatchJob_of_pending hp]; rfl
  case invalid => rw [dispatchJob_of_invalid hb hd hv]; rfl
  case armed => rw [dispatchJob_of_valid hb hd hv]; rfl

/-! ## `ISDONE` and `WAITDONE` (R180, R181) -/

theorem exec_isdone (s : State) : exec .isdone s = execIsdone s := rfl

theorem exec_waitdone (s : State) : exec .waitdone s = execWaitdone s := rfl

/-- Settles O28, branch by branch. -/
theorem isdoneCommand : Obligations.IsdoneCommand := by
  intro s
  refine ⟨fun hr => ?busy, fun hr hd => ?done, fun hr hd => ?notDone⟩
  all_goals rw [exec_isdone, execIsdone]
  case busy => rw [if_pos hr]; rfl
  case done => rw [if_neg (by simp [hr]), if_pos hd]; rfl
  case notDone => rw [if_neg (by simp [hr]), if_neg (by simp [hd])]; rfl

theorem finishWait_of_done (s : State) (h : s.filterDone = true) :
    s.finishWait = { s with filterDone := false, waitHold := false, status := .ok, res := 1 } := by
  obtain ⟨-, e⟩ | ⟨h', -⟩ := s.finishWait_cases
  · exact e
  · simp [h] at h'

theorem finishWait_of_not_done (s : State) (h : s.filterDone = false) :
    s.finishWait = { s with waitHold := false, status := .errNoJob, res := 0 } := by
  obtain ⟨h', -⟩ | ⟨-, e⟩ := s.finishWait_cases
  · simp [h] at h'
  · exact e

/-- Settles O29, branch by branch: with no `WAITDONE` pending, ending the wait leaves the pending bit as it was. -/
theorem waitdoneCommand : Obligations.WaitdoneCommand := by
  intro s hw
  refine ⟨fun hr => ?busy, fun hr hd => ?done, fun hr hd hj => ?noJob, fun hr hd hb hj => ?holds⟩
  all_goals rw [exec_waitdone, execWaitdone]
  case busy => rw [if_pos hr]; rfl
  case done =>
    rw [if_neg (by simp [hr]), if_neg (by simp [hd]), if_pos (by simp [State.holdLifted, hd]), finishWait_of_done s hd, ← hw]
  case noJob => rw [if_neg (by simp [hr]), if_pos (by simpa [hd] using hj)]; rfl
  case holds =>
    rw [if_neg (by simp [hr]), if_neg (by simp [hd, hb, hj]), if_neg (by simp [State.holdLifted, hd, hb])]

/-- The host's turn while a `WAITDONE` holds (R181). -/
theorem step_host_held {s : State} {rest : List Turn} (hs : s.turns = .host :: rest) (hw : s.waitHold = true) :
    step s = .next (if s.holdLifted then State.finishWait { s with turns := rest } else { s with turns := rest }) := by
  rw [step_cons s _ _ hs, State.takeTurn, State.hostTurn, if_pos hw]
  rfl

/-- Settles O30: the hold is lifted exactly when `filterDone` is set or no job is in flight. -/
theorem waitdoneHoldIsLifted : Obligations.WaitdoneHoldIsLifted := by
  intro s rest hs hw
  rw [step_host_held hs hw]
  refine ⟨fun hd hb => ?_, fun hd => ?_, fun hd hb => ?_⟩
  · rw [if_neg (by simp [State.holdLifted, hd, hb])]
  · rw [if_pos (by simp [State.holdLifted, hd]), finishWait_of_done { s with turns := rest } hd]
  · rw [if_pos (by simp [State.holdLifted, hb]), finishWait_of_not_done { s with turns := rest } hd]

/-! ## X1 (R190, R191) -/

/-- X1 on an invalid descriptor aborts the job (R191). -/
theorem step_accel_invalid {s : State} {rest : List Turn} (hs : s.turns = .accel :: rest) (hb : s.accelBusy = true)
    (hv : descValid s.mem s.cp = false) :
    step s = .next { s with turns := rest, cfgError := true, accelBusy := false } := by
  rw [step_accel s rest hs hb, State.stepX1, if_neg (by simp [hv])]

/-- The state in which X1 has written the outputs of the descriptor at `CP` and has not yet moved the job on (R190). -/
def State.afterOutputs (s : State) (rest : List Turn) : State :=
  { s with turns := rest, mem := writeOutputs s.mem (s.mem.descriptor s.cp) }

/-- X1 on a valid descriptor writes its outputs and moves the job on (R190). -/
theorem step_accel_valid {s : State} {rest : List Turn} (hs : s.turns = .accel :: rest) (hb : s.accelBusy = true)
    (hv : descValid s.mem s.cp = true) :
    step s = .next ((s.afterOutputs rest).advanceJob (s.mem.readWord s.cp)) := by
  rw [step_accel s rest hs hb, State.stepX1, if_pos hv, State.afterOutputs]

/-- The job's next position: the next descriptor of the lap. -/
theorem advanceJob_of_descLeft (s : State) (next : Word) (h : 2 ≤ s.descLeft) :
    s.advanceJob next = { s with descLeft := s.descLeft - 1, cp := next } := by
  obtain ⟨-, e⟩ | ⟨h', -⟩ | ⟨h', -⟩ := s.advanceJob_cases next
  · exact e
  all_goals omega

/-- The job's next position at the end of a lap that is not the last: the head. -/
theorem advanceJob_of_lapsLeft (s : State) (next : Word) (h : s.descLeft = 1) (hl : 2 ≤ s.lapsLeft.toNat) :
    s.advanceJob next = { s with lapsLeft := s.lapsLeft - 1, cp := s.firHead, descLeft := s.nch.toNat } := by
  obtain ⟨h', -⟩ | ⟨-, -, e⟩ | ⟨-, hl', -⟩ := s.advanceJob_cases next
  · omega
  · exact e
  · simp [hl'] at hl

/-- The end of the job: `ONCOMPLETE` exactly when `jobCI` is set (R179). -/
theorem advanceJob_of_last (s : State) (next : Word) (h : s.descLeft = 1) (hl : s.lapsLeft.toNat = 1) :
    s.advanceJob next =
      { s with descLeft := 0, lapsLeft := 0, accelBusy := false, filterDone := s.filterDone || s.jobCI } := by
  obtain ⟨h', -⟩ | ⟨-, hl', -⟩ | ⟨-, -, e⟩ := s.advanceJob_cases next
  · omega
  · exact absurd (BitVec.eq_of_toNat_eq hl) hl'
  · exact e

/-- Settles O31: the memory of the three ways on is `writeOutputs`. -/
theorem accelStep : Obligations.AccelStep := by
  intro s rest hs
  refine ⟨rfl, JobDescriptor.taps_eq _, step_accel_idle s rest hs, step_accel_invalid hs, fun hb hv =>
    ⟨writeOutputs s.mem (s.mem.descriptor s.cp), writeOutputs_readWord _ _, writeOutputs_byteAt _ _, fun hd => ?_,
      fun hd hl => ?_, fun hd hl => ?_⟩⟩
  all_goals rw [step_accel_valid hs hb hv]
  · rw [advanceJob_of_descLeft (s.afterOutputs rest) _ hd, State.afterOutputs]
  · rw [advanceJob_of_lapsLeft (s.afterOutputs rest) _ hd hl, State.afterOutputs]
  · rw [advanceJob_of_last (s.afterOutputs rest) _ hd hl, State.afterOutputs]

/-- Descriptors left in the job: those of the laps to come, then those of this lap. -/
def State.jobMeasure (s : State) : Nat := (s.lapsLeft.toNat - 1) * s.nch.toNat + s.descLeft

/-- A job in flight moves on by one descriptor, or ends with its last. -/
theorem advanceJob_jobMeasure (s : State) (next : Word) (hdesc : 1 ≤ s.descLeft) (hlaps : 1 ≤ s.lapsLeft.toNat) :
    ((s.advanceJob next).accelBusy = s.accelBusy ∧ (s.advanceJob next).jobMeasure + 1 = s.jobMeasure) ∨
      ((s.advanceJob next).accelBusy = false ∧ s.jobMeasure = 1 ∧
        (s.advanceJob next).filterDone = (s.filterDone || s.jobCI)) := by
  obtain ⟨-, e⟩ | ⟨hd, hl, e⟩ | ⟨hd, hl, e⟩ := s.advanceJob_cases next
  · refine .inl ?_
    rw [e]
    refine ⟨rfl, ?_⟩
    simp only [State.jobMeasure]
    omega
  · obtain ⟨k, hk⟩ : ∃ k, s.lapsLeft.toNat = k + 2 := ⟨s.lapsLeft.toNat - 2, by bv_omega⟩
    have hlap : (s.lapsLeft - 1).toNat = k + 1 := by bv_omega
    refine .inl ?_
    rw [e]
    refine ⟨rfl, ?_⟩
    simp only [State.jobMeasure, hlap, hk, show s.descLeft = 1 by omega, Nat.add_sub_cancel, show k + 2 - 1 = k + 1 from rfl]
    ring
  · refine .inr ?_
    rw [e]
    exact ⟨rfl, by simp [State.jobMeasure, hl]; omega, rfl⟩

/-- Settles O32: the invariant gives the job a lap and a descriptor left, and no completion pending while it runs. -/
theorem everyAccelStepBringsTheJobCloser : Obligations.EveryAccelStepBringsTheJobCloser := by
  intro s t rest hinv hs hb hv hstep
  obtain ⟨-, hdesc, -, hlaps⟩ := hinv.jobLeft hb
  have hdone : s.filterDone = false := by simpa [hb] using hinv.notBusyAndDone
  rw [step_accel_valid hs hb hv] at hstep
  obtain rfl := Host.Outcome.next.inj hstep
  obtain ⟨hbusy, hm⟩ | ⟨hbusy, hm, hd⟩ :=
    advanceJob_jobMeasure (s.afterOutputs rest) (s.mem.readWord s.cp) hdesc hlaps
  · exact .inl ⟨hbusy.trans hb, hm⟩
  · exact .inr ⟨hbusy, hm, hd.trans (by rw [State.afterOutputs, hdone, Bool.false_or])⟩

end Sys2Proof.Machine
end

section
/-! The invariant at reset and at each step (`43_orchestrator.md` R226), and the orchestrator's commands and interrupt: `START`
(R210), `CheckStart()` (R217), `STOP` (R211), `DELIVER` (R213) and the transport's turn (R212). -/

namespace Sys2Proof.Machine

/-! ## The invariant (R226) -/

/-- Settles O56: a state of the invariant has only next states of the invariant. -/
theorem stepKeepsTheInvariant : Obligations.StepKeepsTheInvariant := by
  intro s t h hstep
  obtain ⟨u, hu, hinv⟩ := step_nextInv h
  obtain rfl := Host.Outcome.next.inj (hu.symm.trans hstep)
  exact hinv

/-- Settles O55: at power-on memory lists nothing, nothing runs and no channel is configured. -/
theorem resetMeetsTheInvariant : Obligations.ResetMeetsTheInvariant where
  memCanonical := rfl
  memInMap := nofun
  guardIsPhase := ⟨nofun, fun hp => absurd rfl hp⟩
  stoppedIsIdle := fun _ => rfl
  busyIsDispatched := nofun
  doneIsDispatched := nofun
  notBusyAndDone := nofun
  jobLeft := nofun
  tapsLegal := fun c hc => by rw [reset_eq_hardwareReset, hardwareReset_chan] at hc; cases hc
  liveGeometry := nofun
  offlineIsDispatched := nofun

theorem Phase.code_le (p : Phase) : p.code.toNat ≤ 4 := by cases p <;> decide

/-- Settles O58: the invariant does not see the environment and `FXW`, it holds at reset, and runs stay in it. -/
theorem reachableStatesSatisfyI1ToI6 : Obligations.ReachableStatesSatisfyI1ToI6 := by
  intro fxw turns hostOps transportOps n
  have hstart : State.Inv
      { State.reset with fxw := fxw, turns := turns, hostOps := hostOps, transportOps := transportOps } :=
    { resetMeetsTheInvariant with }
  obtain ⟨t, hrun, ht⟩ := runsNeverStop n _ hstart
  exact ⟨t, hrun, ht.guardIsPhase, ht.stoppedIsIdle, ht.busyIsDispatched, ht.doneIsDispatched, ht.notBusyAndDone,
    t.phase.code_le⟩

/-! ## `CheckStart()` (R217) -/

theorem checkStart_live_iff {s : State} (hm : s.mode = .liveStreaming) :
    s.checkStart = true ↔
      1 ≤ s.nch.toNat ∧ s.nch.toNat ≤ 16 ∧ 1 ≤ s.bsize.toNat ∧ s.bsize.toNat ≤ 4096 ∧
        (∀ c, c < s.nch.toNat → (s.chan c).configured = true) ∧ s.chainValid s.firHead = true ∧
        (s.mem.descriptor s.firHead).ai = false ∧ (s.mem.descriptor s.firHead).ci = true ∧
        ∀ c, c < s.nch.toNat → s.channelAgrees c = true := by
  simp only [State.checkStart, hm, State.nchLegal, State.bsizeLegal, Bool.and_eq_true, Bool.not_eq_true', inRange_iff,
    allBelow_iff, and_assoc]
  rfl

theorem checkStart_offline_iff {s : State} (hm : s.mode = .offlineValidation) :
    s.checkStart = true ↔
      1 ≤ s.nch.toNat ∧ s.nch.toNat ≤ 16 ∧ s.chainValid s.firHead = true ∧
        (s.mem.descriptor s.firHead).ai = true ∧ (s.mem.descriptor s.firHead).ci = true := by
  simp only [State.checkStart, hm, State.nchLegal, Bool.and_eq_true, inRange_iff, and_assoc]
  rfl

/-- L5 for one channel. -/
theorem State.channelAgrees_iff (s : State) (c : Nat) :
    s.channelAgrees c = true ↔
      (s.mem.descriptor (chainAddr s.mem s.firHead c)).taps = (s.chan c).taps.toNat ∧
      (s.mem.descriptor (chainAddr s.mem s.firHead c)).outLen = s.bsize ∧
      (s.mem.descriptor (chainAddr s.mem s.firHead c)).inBase = Region.win.base c ∧
      (s.mem.descriptor (chainAddr s.mem s.firHead c)).outBase = Region.out.base c := by
  simp only [State.channelAgrees, Bool.and_eq_true, decide_eq_true_eq, and_assoc]

/-- Settles O34: the check of each mode, with L5 read off for each channel. -/
theorem checkStartIsTheListedConditions : Obligations.CheckStartIsTheListedConditions := by
  intro s
  refine ⟨fun hm => ?_, checkStart_offline_iff⟩
  simp only [checkStart_live_iff hm, State.channelAgrees_iff]

/-! ## `START` and `STOP` (R210, R211) -/

theorem exec_start (s : State) : exec .start s = execStart s := rfl

theorem exec_stop (s : State) : exec .stop s = execStop s := rfl

theorem exec_start_busy {s : State}
    (h : s.run = true ∨ s.phase ≠ .idle ∨ s.accelBusy = true ∨ s.filterDone = true) :
    exec .start s = .next { s with status := .errBusy, res := 0 } := by
  rw [exec_start, execStart, if_pos (by simpa [or_assoc] using h)]
  rfl

section Start
variable {s : State} (hr : s.run = false) (hp : s.phase = .idle) (hb : s.accelBusy = false) (hd : s.filterDone = false)
include hr hp hb hd

theorem exec_start_refused (h : s.cfgError = true ∨ s.checkStart = false) :
    exec .start s = .next { s with status := .errConfig, res := 0, cfgError := true } := by
  rw [exec_start, execStart, if_neg (by simp [hr, hp, hb, hd]), if_pos (by simpa using h)]
  rfl

theorem exec_start_live (he : s.cfgError = false) (hc : s.checkStart = true) (hm : s.mode = .liveStreaming) :
    exec .start s = .next
      { s with status := .ok, res := 0, run := true, blockReady := false, fillSlot := 0, filled := [] } := by
  rw [exec_start, execStart, if_neg (by simp [hr, hp, hb, hd]), if_neg (by simp [he, hc]), hm]
  rfl

/-- The check leaves `Dispatch()` nothing to refuse. -/
theorem exec_start_offline (he : s.cfgError = false) (hc : s.checkStart = true) (hm : s.mode = .offlineValidation) :
    exec .start s = .next
      { s with
        status := .ok, res := 0, run := true, blockReady := false, processingActive := true, phase := .dispatched
        jobCI := true, jobAI := true, cp := s.firHead, descLeft := s.nch.toNat, lapsLeft := s.iter, accelBusy := true } := by
  obtain ⟨-, -, hv, hai, hci⟩ := (checkStart_offline_iff hm).mp hc
  have hjob : State.dispatchJob { s with run := true, blockReady := false } = (.ok,
      { s with
        run := true, blockReady := false, jobCI := true, jobAI := true, cp := s.firHead, descLeft := s.nch.toNat
        lapsLeft := s.iter, accelBusy := true }) := by
    simpa only [hai, hci, if_true] using dispatchJob_of_valid (s := { s with run := true, blockReady := false }) hb hd hv
  rw [exec_start, execStart, if_neg (by simp [hr, hp, hb, hd]), if_neg (by simp [he, hc])]
  split
  · exact congrArg (fun p : Status × State =>
      (.next (State.complete { p.2 with processingActive := true, phase := .dispatched } 0) : Outcome)) hjob
  · next hl => exact absurd (hm.symm.trans hl) nofun

end Start

/-- Settles O33, branch by branch. -/
theorem startCommand : Obligations.StartCommand := fun _ =>
  ⟨exec_start_busy, fun hr hp hb hd =>
    ⟨exec_start_refused hr hp hb hd, exec_start_live hr hp hb hd, exec_start_offline hr hp hb hd⟩⟩

theorem exec_stop_busy {s : State} (h : s.run = false ∨ s.phase ≠ .idle ∨ s.accelBusy = true) :
    exec .stop s = .next { s with status := .errBusy, res := 0 } := by
  rw [exec_stop, execStop, if_pos (by simpa [or_assoc] using h)]
  rfl

theorem exec_stop_idle {s : State} (hr : s.run = true) (hp : s.phase = .idle) (hb : s.accelBusy = false) :
    exec .stop s = .next { s with status := .ok, res := 0, run := false, blockReady := false } := by
  rw [exec_stop, execStop, if_neg (by simp [hr, hp, hb])]
  rfl

/-- Settles O35, branch by branch. -/
theorem stopCommand : Obligations.StopCommand := fun _ => ⟨exec_stop_busy, exec_stop_idle⟩

/-! ## `DELIVER` and the transport's turn (R212, R213) -/

theorem State.transportEnable_iff (s : State) : s.transportEnable = true ↔ s.run = true ∧ s.mode = .liveStreaming := by
  simp only [State.transportEnable, Bool.and_eq_true, Mode.bit_eq, decide_eq_true_eq]

theorem deliver_masked {s : State} (h : s.transportEnable = false) (slot group : Nat) : s.deliver slot group = s := by
  rw [State.deliver, if_pos h]

theorem deliver_fault {s : State} (h : s.transportEnable = true) {slot group : Nat} (hbad : group ≠ 0 ∨ 1 < slot) :
    s.deliver slot group = { s with protoFault := true } := by
  rw [State.deliver, if_neg (by simp [h]), if_pos (by omega)]

theorem deliver_accepted {s : State} (h : s.transportEnable = true) {slot group : Nat} (hg : group = 0) (hs : slot ≤ 1) :
    s.deliver slot group =
      { s with
        overrunCount := if s.blockReady || s.processingActive then satInc s.overrunCount else s.overrunCount
        blockCount := satInc s.blockCount
        rxSlot := Fin.ofNat 2 slot
        blockReady := true } := by
  rw [State.deliver, if_neg (by simp [h]), if_neg (by omega)]

/-- Settles O36, branch by branch; a slot number of at most 1 is the slot. -/
theorem deliverInterrupt : Obligations.DeliverInterrupt := by
  intro s slot group
  refine ⟨fun h => deliver_masked ?_ slot group, fun hr hm => deliver_fault (s.transportEnable_iff.mpr ⟨hr, hm⟩),
    fun hr hm hg hs => ?_⟩
  · rw [← Bool.not_eq_true, s.transportEnable_iff]
    rintro ⟨hr, hm⟩
    simp [hr, hm] at h
  · have hslot : Fin.ofNat 2 slot = if slot = 1 then 1 else 0 := by interval_cases slot <;> rfl
    rw [deliver_accepted (s.transportEnable_iff.mpr ⟨hr, hm⟩) hg hs, hslot]
    simp only [Bool.or_eq_true]

/-- The offsets that `TWR` lists as filled. -/
theorem mem_filled_iff (filled : List (BitVec 16)) (o offset : BitVec 16) (p : Prop) [Decidable p] :
    (o ∈ if p ∧ offset ∉ filled then filled ++ [offset] else filled) ↔ o ∈ filled ∨ (o = offset ∧ p) := by
  split_ifs with h
  · simp [h.1]
  · refine ⟨.inl, ?_⟩
    rintro (ho | ⟨rfl, hp⟩)
    · exact ho
    · by_contra hn
      exact h ⟨hp, hn⟩

/-- A delivery of the contract's form moves the transport on to the other slot. -/
theorem transportOp_deliver_turns {s : State} {slot group : Nat}
    (h : s.transportEnable = true ∧ slot = s.fillSlot.val ∧ group = 0) :
    s.transportOp (.deliver slot group) = { s.deliver slot group with fillSlot := s.fillSlot + 1, filled := [] } := by
  rw [State.transportOp, if_pos h]

theorem transportOp_deliver_stays {s : State} {slot group : Nat}
    (h : ¬ (s.transportEnable = true ∧ slot = s.fillSlot.val ∧ group = 0)) :
    s.transportOp (.deliver slot group) = s.deliver slot group := by
  rw [State.transportOp, if_neg h]

/-- The block's side of a delivery leaves the transport's own fields alone. -/
theorem deliver_transport (s : State) (slot group : Nat) :
    (s.deliver slot group).fillSlot = s.fillSlot ∧ (s.deliver slot group).filled = s.filled := by
  obtain ⟨-, e⟩ | ⟨-, -, e⟩ | ⟨-, -, -, e⟩ := s.deliver_cases slot group <;> rw [e] <;> exact ⟨rfl, rfl⟩

/-- Settles O37: each clause is `State.transportOp` at its operation. -/
theorem transportTurn : Obligations.TransportTurn := by
  intro s rest op ops hs hops
  have hstep := step_transport s rest op ops hs hops
  cases op with
  | write slot offset w =>
    rw [State.transportOp, slotWord_eq] at hstep
    exact ⟨_, _, hstep, Memory.readWord_writeWord_self .., fun k hk => Memory.byteAt_writeWord_of_ne _ _ _ _ (hk 0 Nat.one_pos),
      fun o => mem_filled_iff s.filled o offset (slot = s.fillSlot)⟩
  | read slot offset =>
    rw [State.transportOp, slotWord_eq] at hstep
    exact hstep
  | deliver slot group =>
    by_cases hc : s.transportEnable = true ∧ slot = s.fillSlot.val ∧ group = 0
    · rw [transportOp_deliver_turns (s := { s with turns := rest, transportOps := ops }) hc] at hstep
      have hflip : ∀ f : Slot, (f + 1).val = 1 - f.val := by decide
      refine ⟨_, _, hstep, fun _ _ _ => ⟨hflip s.fillSlot, rfl⟩, fun hn => ?_⟩
      simp [hc] at hn
    · rw [transportOp_deliver_stays (s := { s with turns := rest, transportOps := ops }) hc] at hstep
      exact ⟨_, _, hstep, fun he ha hg => absurd ⟨he, ha, hg⟩ hc, fun _ =>
        deliver_transport { s with turns := rest, transportOps := ops } slot group⟩

end Sys2Proof.Machine
end

section
/-! The orchestrator's steps that touch no memory (`43_orchestrator.md` R218, R219, R222, R225). -/

namespace Sys2Proof.Machine

/-- In `IDLE` only S1 can be enabled (R218). -/
theorem orchEnabled_idle {s : State} (hp : s.phase = .idle) :
    s.orchEnabled = if s.run = true ∧ s.mode = .liveStreaming ∧ s.blockReady = true then some .s1 else none := by
  simp only [State.orchEnabled, hp, Mode.bit_eq, Bool.and_eq_true, decide_eq_true_eq, and_assoc]

/-- In `DISPATCHED` the mode chooses between S4 and S4V (R218). -/
theorem orchEnabled_dispatched {s : State} (hp : s.phase = .dispatched) :
    s.orchEnabled =
      if s.filterDone = true then some (if s.mode = .liveStreaming then .s4 else .s4v) else none := by
  simp only [State.orchEnabled, hp]
  cases s.mode <;> rfl

/-- The effect of each step of `ORCH`. -/
def State.orchStep (s : State) : OrchStep → Outcome
  | .s1 => .next s.stepS1
  | .s2 => s.stepS2
  | .s3 => s.stepS3
  | .s4 => .next s.stepS4
  | .s5 => s.stepS5
  | .s4v => .next s.stepS4V

theorem stepOrch_of_none {s : State} (he : s.orchEnabled = none) : s.stepOrch = .next s := by
  rw [State.stepOrch, he]

theorem stepOrch_of_some {s : State} {o : OrchStep} (he : s.orchEnabled = some o) : s.stepOrch = s.orchStep o := by
  rw [State.stepOrch, he]
  cases o <;> rfl

/-- The orchestrator's turn is its enabled step. -/
theorem step_orch_of_some {s : State} {rest : List Turn} {o : OrchStep} (hs : s.turns = .orch :: rest)
    (he : s.orchEnabled = some o) : step s = State.orchStep { s with turns := rest } o :=
  (step_orch s rest hs).trans (stepOrch_of_some (s := { s with turns := rest }) he)

/-- Settles O38, phase by phase. -/
theorem orchestratorEnabledSteps : Obligations.OrchestratorEnabledSteps := by
  intro s rest hs
  refine ⟨fun he => (step_orch s rest hs).trans (stepOrch_of_none (s := { s with turns := rest }) he), ?_⟩
  cases hp : s.phase with
  | idle => simp [orchEnabled_idle hp]
  | dispatched =>
    rw [orchEnabled_dispatched hp]
    cases s.mode <;> simp
  | converting | staging | emitting => simp [State.orchEnabled, hp]

/-- Settles O39: in each state the enabled step is the one named. -/
theorem stepsS1S4AndS4V : Obligations.StepsS1S4AndS4V := by
  intro s rest hs
  refine ⟨fun hr hm hp hb => ?_, fun hp hm hd => ?_, fun hp hm hd => ?_⟩
  · exact step_orch_of_some hs ((orchEnabled_idle hp).trans (if_pos ⟨hr, hm, hb⟩))
  · exact step_orch_of_some hs (o := .s4) (by simp [orchEnabled_dispatched hp, hm, hd])
  · exact step_orch_of_some hs (o := .s4v) (by simp [orchEnabled_dispatched hp, hm, hd])

end Sys2Proof.Machine
end

section
/-! The orchestrator's steps over the block (`43_orchestrator.md`): S2 (R220), S3 (R221) and S5 (R223), each a loop over the
channels. -/

namespace Sys2Proof.Machine

/-! ## What a loop leaves -/

/-- What an observation sees after a loop is what the pass `c` left, if no later pass changes it. -/
theorem iterUp_pass {α β : Type} (see : α → β) (n : Nat) (f : Nat → α → α) (a : α) {c : Nat} (hc : c < n)
    (h : ∀ j x, c < j → j < n → see (f j x) = see x) : see (iterUp n f a) = see (f c (iterUp c f a)) := by
  induction n with
  | zero => exact absurd hc (Nat.not_lt_zero c)
  | succ n ih =>
    rw [iterUp_succ]
    rcases Nat.lt_succ_iff_lt_or_eq.mp hc with hlt | rfl
    · exact (h n _ hlt (Nat.lt_succ_self n)).trans (ih hlt fun j x hcj hj => h j x hcj (Nat.lt_succ_of_lt hj))
    · rfl

/-- What no pass changes, the loop does not change. -/
theorem iterUp_unseen {α β : Type} (see : α → β) (n : Nat) (f : Nat → α → α) (a : α)
    (h : ∀ j x, j < n → see (f j x) = see x) : see (iterUp n f a) = see a :=
  iterUp_keeps (fun x => see x = see a) n f a rfl fun j x hj hx => (h j x hj).trans hx

/-- A word that is none of the words written reads as before. -/
theorem Memory.agreeOutside.readWord {m m' : Memory} {n : Nat} {addr : Nat → Word} (h : m.agreeOutside m' n addr) {a : Word}
    (ha : ∀ i, i < n → addr i ≠ a) : m'.readWord a = m.readWord a :=
  Memory.readWord_congr _ _ _ fun j hj => h j fun i hi e => ha i hi (BitVec.eq_of_toNat_eq (e.symm.trans hj))

/-! ## Loops whose pass `c` writes the buffer of unit `c` -/

/-- Pass `c` writes at most the first `len c` words of the buffer of unit `c` of the region. -/
def WritesOwnUnit (r : Region) (n : Nat) (len : Nat → Nat) (f : Nat → Memory → Memory) : Prop :=
  ∀ c, c < n → len c ≤ 65536 ∧ ∀ m : Memory, m.agreeOutside (f c m) (len c) (unitStride (r.base c))

section WritesOwnUnit
variable {r : Region} {n : Nat} {len : Nat → Nat} {f : Nat → Memory → Memory} (hf : WritesOwnUnit r n len f) (hn : n ≤ 16)
include hf

theorem WritesOwnUnit.byteAt (m : Memory) {k : Nat}
    (hk : ∀ c i, c < n → i < len c → k / 4 ≠ (unitStride (r.base c) i).toNat) :
    (iterUp n f m).byteAt k = m.byteAt k :=
  iterUp_unseen (fun m => m.byteAt k) n f m fun c m hc => (hf c hc).2 m k fun i hi => hk c i hc hi

include hn

/-- The buffer of unit `c` is as pass `c` left it. -/
theorem WritesOwnUnit.readWord (m : Memory) {c i : Nat} (hc : c < n) (hi : i < 65536) :
    (iterUp n f m).readWord (unitStride (r.base c) i) = (f c (iterUp c f m)).readWord (unitStride (r.base c) i) :=
  iterUp_pass (fun m => m.readWord (unitStride (r.base c) i)) n f m hc fun j m' hcj hj =>
    ((hf j hj).2 m').readWord fun i' hi' =>
      Region.base_ne_unit _ _ _ _ _ _ (by omega) (by omega) (by omega) (lt_of_lt_of_le hi' (hf j hj).1) hi

/-- Up to any pass, the buffers of the other regions are as they were. -/
theorem WritesOwnUnit.readWord_of_ne (m : Memory) {r' : Region} (hr : r ≠ r') {p u i : Nat} (hp : p ≤ n) (hu : u < 256)
    (hi : i < 65536) : (iterUp p f m).readWord (unitStride (r'.base u) i) = m.readWord (unitStride (r'.base u) i) :=
  iterUp_unseen (fun m => m.readWord (unitStride (r'.base u) i)) p f m fun j m' hj =>
    ((hf j (by omega)).2 m').readWord fun i' hi' =>
      Region.base_ne _ _ _ _ _ _ hr (by omega) hu (lt_of_lt_of_le hi' (hf j (by omega)).1) hi

end WritesOwnUnit

/-! ## S2 (R220) -/

/-- The memory after S2. -/
def State.convertedMem (s : State) : Memory :=
  iterUp s.nch.toNat (fun c m => convertToFloat s.fxw.val (Region.csb.base c) (s.rxChannel c) s.nch s.bsize.toNat m) s.mem

/-- The words of channel `c` in the interleaved receive slot (`40_conversion.md` R138). -/
theorem rxChannel_stride (s : State) (c i : Nat) :
    channelStride (s.rxChannel c) s.nch i = unitStride (Region.rx.base s.curSlot.val) (i * s.nch.toNat + c) :=
  channelStride_eq _ _ _ _

theorem txChannel_stride (s : State) (c i : Nat) :
    channelStride (s.txChannel c) s.nch i = unitStride (Region.tx.base s.curSlot.val) (i * s.nch.toNat + c) :=
  channelStride_eq _ _ _ _

theorem slot_lt (slot : Slot) : slot.val < 256 := slot.isLt.trans (by decide)

theorem convert_writesOwnUnit (s : State) (hB : s.bsize.toNat ≤ 4096) :
    WritesOwnUnit .csb s.nch.toNat (fun _ => s.bsize.toNat)
      (fun c m => convertToFloat s.fxw.val (Region.csb.base c) (s.rxChannel c) s.nch s.bsize.toNat m) :=
  fun _ _ => ⟨hB.trans (by decide), fun m k => convertToFloat_byteAt _ _ _ _ _ m k⟩

section S2
variable {s : State} (hN : s.nch.toNat ≤ 16) (hB : s.bsize.toNat ≤ 4096)
include hN hB

theorem stepS2_eq : s.stepS2 = .next { s with mem := s.convertedMem, phase := .staging } := by
  rw [State.stepS2, if_pos, State.convertedMem]
  simp only [allBelow_iff, toFloatMapped, Bool.and_eq_true]
  exact fun c hc i hi => ⟨mapped_interleaved .rx rfl rfl _ hN hB hc hi,
    Region.mapped_base .csb c i (hc.trans_le hN) (hi.trans_le hB)⟩

/-- Sample `i` of channel `c` comes from offset `i * N + c` of the slot, which no pass writes. -/
theorem convertedMem_readWord {c i : Nat} (hc : c < s.nch.toNat) (hi : i < s.bsize.toNat) :
    s.convertedMem.readWord (unitStride (Region.csb.base c) i) =
      floatOf s.fxw.val (s.mem.readWord (unitStride (Region.rx.base s.curSlot.val) (i * s.nch.toNat + c))) := by
  have hf := convert_writesOwnUnit s hB
  have hoff := interleaved_lt i c _ _ hi hc hB hN
  rw [State.convertedMem, hf.readWord hN _ hc (by omega), convertToFloat_readWord _ _ _ _ _ _ (by omega) i hi,
    rxChannel_stride, hf.readWord_of_ne hN _ (by decide) hc.le (slot_lt _) hoff]
  intro j hj
  rw [rxChannel_stride]
  exact Region.base_ne _ _ _ _ _ _ (by decide) (by omega) (slot_lt _) (by omega) hoff

end S2

/-- Settles O40: pass `c` of S2 writes `CSB[c]` alone and reads the slot, which no pass writes. -/
theorem stepS2ConvertsTheBlock : Obligations.StepS2ConvertsTheBlock := by
  intro s rest hs hp _ hN _ hB
  refine ⟨s.convertedMem, ?_, fun c i => convertedMem_readWord hN hB, fun k => (convert_writesOwnUnit s hB).byteAt s.mem⟩
  rw [step_orch_of_some hs (o := .s2) (by rw [State.orchEnabled, hp])]
  exact stepS2_eq (s := { s with turns := rest }) hN hB

/-! ## S3 (R221) -/

theorem stage_writesOwnUnit {s : State} (hB : s.bsize.toNat ≤ 4096)
    (hT : ∀ c, c < s.nch.toNat → s.histLen c ≤ 4095) :
    WritesOwnUnit .win s.nch.toNat (fun c => s.histLen c + s.bsize.toNat)
      (fun c m => stageWords c (s.histLen c) s.bsize.toNat m) :=
  fun c hc => ⟨(Nat.add_le_add (hT c hc) hB).trans (by decide), fun m k => stageWords_byteAt _ _ _ m k⟩

theorem capture_writesOwnUnit {s : State} (hT : ∀ c, c < s.nch.toNat → s.histLen c ≤ 4095) :
    WritesOwnUnit .hist s.nch.toNat s.histLen (fun c m => captureWords c (s.histLen c) s.bsize.toNat m) :=
  fun c hc => ⟨(hT c hc).trans (by decide), fun m k => captureWords_byteAt _ _ _ m k⟩

section S3
variable {s : State} (hN : s.nch.toNat ≤ 16) (hB : s.bsize.toNat ≤ 4096)
  (hT : ∀ c, c < s.nch.toNat → s.histLen c ≤ 4095)
include hN hB hT

/-- The window of a channel begins with its history, which no pass writes. -/
theorem stageAll_history {c i : Nat} (hc : c < s.nch.toNat) (hi : i < s.histLen c) :
    s.stageAll.mem.readWord (unitStride (Region.win.base c) i) = s.mem.readWord (unitStride (Region.hist.base c) i) := by
  have hf := stage_writesOwnUnit hB hT
  have hh := hT c hc
  rw [State.stageAll, hf.readWord hN _ hc (by omega),
    stageWords_history _ _ _ _ (by omega) (by omega) hB i hi,
    hf.readWord_of_ne hN _ (by decide) hc.le (by omega) (by omega)]

/-- After the history comes the channel's new block. -/
theorem stageAll_block {c j : Nat} (hc : c < s.nch.toNat) (hj : j < s.bsize.toNat) :
    s.stageAll.mem.readWord (unitStride (Region.win.base c) (s.histLen c + j)) =
      s.mem.readWord (unitStride (Region.csb.base c) j) := by
  have hf := stage_writesOwnUnit hB hT
  have hh := hT c hc
  rw [State.stageAll, hf.readWord hN _ hc (by omega),
    stageWords_block _ _ _ _ (by omega) (by omega) hB j hj,
    hf.readWord_of_ne hN _ (by decide) hc.le (by omega) (by omega)]

omit hB in
/-- The capture leaves the windows alone. -/
theorem captureAll_window {c i : Nat} (hc : c < s.nch.toNat) (hi : i < 65536) :
    s.captureAll.mem.readWord (unitStride (Region.win.base c) i) = s.mem.readWord (unitStride (Region.win.base c) i) :=
  (capture_writesOwnUnit hT).readWord_of_ne hN s.mem (by decide) le_rfl (by omega) hi

/-- The history of a channel becomes the last words of its window. -/
theorem captureAll_history {c i : Nat} (hc : c < s.nch.toNat) (hi : i < s.histLen c) :
    s.captureAll.mem.readWord (unitStride (Region.hist.base c) i) =
      s.mem.readWord (unitStride (Region.win.base c) (s.bsize.toNat + i)) := by
  have hf := capture_writesOwnUnit hT
  have hh := hT c hc
  rw [State.captureAll, hf.readWord hN _ hc (by omega),
    captureWords_history _ _ _ _ (by omega) (by omega) hB i hi,
    hf.readWord_of_ne hN _ (by decide) hc.le (by omega) (by omega)]

theorem stagerMapped_channels :
    (allBelow s.nch.toNat fun c => stagerMapped c (s.histLen c) s.bsize.toNat) = true :=
  (allBelow_iff _ _).mpr fun c hc => stagerMapped_of_legal c _ _ (hc.trans_le hN) (hT c hc) hB

theorem stepS3_overrun (h : s.accelBusy = true ∨ s.filterDone = true) :
    s.stepS3 = .next
      { s.stageAll with overrunCount := satInc s.overrunCount, processingActive := false, phase := .idle } := by
  rw [State.stepS3, if_pos (stagerMapped_channels hN hB hT), dispatchJob_of_pending (s := s.stageAll) h]
  rfl

theorem stepS3_invalid (hb : s.accelBusy = false) (hd : s.filterDone = false)
    (hv : s.stageAll.chainValid s.firHead = false) :
    s.stepS3 = .next { s.stageAll with cfgError := true, phase := .dispatched } := by
  rw [State.stepS3, if_pos (stagerMapped_channels hN hB hT), dispatchJob_of_invalid (s := s.stageAll) hb hd hv]

theorem stepS3_valid (hb : s.accelBusy = false) (hd : s.filterDone = false)
    (hv : s.stageAll.chainValid s.firHead = true) :
    s.stepS3 = .next
      { s.stageAll.captureAll with
        phase := .dispatched, cp := s.firHead, descLeft := s.nch.toNat, accelBusy := true
        jobCI := (s.stageAll.mem.descriptor s.firHead).ci, jobAI := (s.stageAll.mem.descriptor s.firHead).ai
        lapsLeft := if (s.stageAll.mem.descriptor s.firHead).ai then s.iter else 1 } := by
  rw [State.stepS3, if_pos (stagerMapped_channels hN hB hT), dispatchJob_of_valid (s := s.stageAll) hb hd hv]
  rfl

end S3

/-- In `STAGING` the orchestrator's turn is S3. -/
theorem step_staging {s : State} {rest : List Turn} (hs : s.turns = .orch :: rest) (hp : s.phase = .staging) :
    step s = State.stepS3 { s with turns := rest } :=
  step_orch_of_some hs (o := .s3) (by rw [State.orchEnabled, hp])

/-- Settles O41: the windows are those of `stageAll`, which `captureAll` keeps and takes the histories from. -/
theorem stepS3StagesDispatchesCaptures : Obligations.StepS3StagesDispatchesCaptures := by
  intro s rest hs hp _ hN _ hB htaps hb hd hv
  have hT : ∀ c, c < s.nch.toNat → s.histLen c ≤ 4095 := fun c hc => State.histLen_le (htaps c hc).2
  have hwindow : ∀ {c i}, c < s.nch.toNat → i < 65536 →
      s.stageAll.captureAll.mem.readWord (unitStride (Region.win.base c) i) =
        s.stageAll.mem.readWord (unitStride (Region.win.base c) i) := captureAll_window (s := s.stageAll) hN hT
  refine ⟨s.stageAll.captureAll.mem, ?step, fun c hc => ⟨fun i hi => ?history, fun j hj => ?block, fun i hi => ?captured⟩,
    fun k hwin hhist => ?frame⟩
  case step => exact (step_staging hs hp).trans (stepS3_valid (s := { s with turns := rest }) hN hB hT hb hd hv)
  case history =>
    rw [hwindow hc (hi.trans_le ((hT c hc).trans (by decide)))]
    exact stageAll_history hN hB hT hc hi
  case block =>
    have hh : (s.chan c).taps.toNat - 1 ≤ 4095 := hT c hc
    rw [hwindow hc (by omega)]
    exact stageAll_block hN hB hT hc hj
  case captured =>
    have hh : (s.chan c).taps.toNat - 1 ≤ 4095 := hT c hc
    rw [hwindow hc (by omega)]
    exact captureAll_history (s := s.stageAll) hN hB hT hc hi
  case frame =>
    exact ((capture_writesOwnUnit (s := s.stageAll) hT).byteAt s.stageAll.mem hhist).trans
      ((stage_writesOwnUnit hB hT).byteAt s.mem hwin)

/-- Settles O42, branch by branch. -/
theorem stepS3FailureBranches : Obligations.StepS3FailureBranches := by
  intro s rest hs hp _ hN _ hB htaps
  have hT : ∀ c, c < s.nch.toNat → s.histLen c ≤ 4095 := fun c hc => State.histLen_le (htaps c hc).2
  rw [step_staging hs hp]
  exact ⟨stepS3_overrun (s := { s with turns := rest }) hN hB hT, stepS3_invalid (s := { s with turns := rest }) hN hB hT⟩

/-! ## S5 (R223) -/

/-- Memory and `SAT_COUNT` once S5 has converted the first `n` channels. -/
def State.fixedChannels (s : State) (n : Nat) : Memory × Word :=
  iterUp n (fun c p => convertToFixed s.fxw.val (s.txChannel c) (Region.out.base c) s.nch s.bsize.toNat p) (s.mem, s.satCount)

/-- The number of samples of channel `c` that S5 saturates. -/
def State.saturated (s : State) (c : Nat) : Nat :=
  ((List.range s.bsize.toNat).filter
    fun i => (fixOf s.fxw.val (s.mem.readWord (unitStride (Region.out.base c) i))).2).length

/-- Channel and sample are read off the offset in an interleaved block. -/
theorem interleaved_inj {n c c' i i' : Nat} (hc : c < n) (hc' : c' < n) (h : i * n + c = i' * n + c') : i = i' ∧ c = c' := by
  have hmod := congrArg (· % n) h
  simp only [Nat.mul_add_mod_self_right, Nat.mod_eq_of_lt hc, Nat.mod_eq_of_lt hc'] at hmod
  subst hmod
  exact ⟨Nat.eq_of_mul_eq_mul_right (by omega) (Nat.add_right_cancel h), rfl⟩

theorem interleaved_lt_mul {n b c i : Nat} (hc : c < n) (hi : i < b) : i * n + c < b * n :=
  calc i * n + c < i * n + n := Nat.add_lt_add_left hc _
    _ = (i + 1) * n := (Nat.succ_mul i n).symm
    _ ≤ b * n := Nat.mul_le_mul_right n hi

section S5
variable {s : State} (hN : s.nch.toNat ≤ 16) (hB : s.bsize.toNat ≤ 4096)
include hN hB

theorem stepS5_eq :
    s.stepS5 = .next
      { s with
        mem := (s.fixedChannels s.nch.toNat).1
        satCount := (s.fixedChannels s.nch.toNat).2
        emits := s.emits ++ [⟨s.curSlot, txBlock (s.fixedChannels s.nch.toNat).1 s.curSlot (s.bsize.toNat * s.nch.toNat)⟩]
        processingActive := false
        phase := .idle } := by
  rw [State.stepS5, if_pos]
  · rfl
  · simp only [allBelow_iff, toFixedMapped, Bool.and_eq_true]
    exact fun c hc i hi => ⟨mapped_interleaved .tx rfl rfl _ hN hB hc hi,
      Region.mapped_base .out c i (hc.trans_le hN) (hi.trans_le hB)⟩

/-- No sample of a channel goes to a word of an output buffer. -/
theorem txChannel_ne_out {c i : Nat} (hc : c < s.nch.toNat) (hi : i < s.bsize.toNat) {u j : Nat} (hu : u < 256)
    (hj : j < 65536) : channelStride (s.txChannel c) s.nch i ≠ unitStride (Region.out.base u) j := by
  rw [txChannel_stride]
  exact Region.base_ne _ _ _ _ _ _ (by decide) (slot_lt _) hu (interleaved_lt i c _ _ hi hc hB hN) hj

/-- Different samples go to different words of the slot. -/
theorem txChannel_ne {c c' i i' : Nat} (hc : c < s.nch.toNat) (hc' : c' < s.nch.toNat) (hi : i < s.bsize.toNat)
    (hi' : i' < s.bsize.toNat) (hne : i ≠ i' ∨ c ≠ c') :
    channelStride (s.txChannel c) s.nch i ≠ channelStride (s.txChannel c') s.nch i' := by
  rw [txChannel_stride, txChannel_stride]
  refine Region.base_ne_offset _ _ _ _ (fun e => ?_) (slot_lt _) (interleaved_lt i c _ _ hi hc hB hN)
    (interleaved_lt i' c' _ _ hi' hc' hB hN)
  obtain ⟨hii, hcc⟩ := interleaved_inj hc hc' e
  exact hne.elim (· hii) (· hcc)

/-- The output buffers are as they were at every pass. -/
theorem fixedChannels_out {n : Nat} (hn : n ≤ s.nch.toNat) {u i : Nat} (hu : u < 256) (hi : i < 65536) :
    (s.fixedChannels n).1.readWord (unitStride (Region.out.base u) i) =
      s.mem.readWord (unitStride (Region.out.base u) i) :=
  iterUp_unseen (fun p : Memory × Word => p.1.readWord (unitStride (Region.out.base u) i)) n _ (s.mem, s.satCount)
    fun _ p hc => convertToFixed_readWord_of_ne _ _ _ _ _ p _ fun _ hj =>
      txChannel_ne_out hN hB (hc.trans_le hn) hj hu hi

/-- Sample `i` of channel `c` is written by pass `c` alone. -/
theorem fixedChannels_readWord {c i : Nat} (hc : c < s.nch.toNat) (hi : i < s.bsize.toNat) :
    (s.fixedChannels s.nch.toNat).1.readWord (unitStride (Region.tx.base s.curSlot.val) (i * s.nch.toNat + c)) =
      (fixOf s.fxw.val (s.mem.readWord (unitStride (Region.out.base c) i))).1 := by
  have hout := fixedChannels_out hN hB hc.le (u := c) (i := i) (by omega) (by omega)
  rw [State.fixedChannels] at hout
  rw [← txChannel_stride, State.fixedChannels,
    iterUp_pass (fun p : Memory × Word => p.1.readWord (channelStride (s.txChannel c) s.nch i)) _ _ _ hc,
    convertToFixed_readWord _ _ _ _ _ _ i hi, hout]
  · exact fun j hij hj => txChannel_ne hN hB hc hc hj hi (.inl (by omega))
  · exact fun j hj => txChannel_ne_out hN hB hc (by omega) (by omega) (by omega)
  · exact fun c' p hcc hc' => convertToFixed_readWord_of_ne _ _ _ _ _ p _ fun j hj =>
      txChannel_ne hN hB hc' hc hj hi (.inr (by omega))

/-- The count grows channel by channel by the saturated samples (`40_conversion.md` R135). -/
theorem fixedChannels_count {n : Nat} (hn : n ≤ s.nch.toNat) :
    (s.fixedChannels n).2.toNat = min (2 ^ 32 - 1) (s.satCount.toNat + ((List.range n).map s.saturated).sum) := by
  induction n with
  | zero =>
    have := s.satCount.isLt
    simp only [State.fixedChannels, iterUp_zero, List.range_zero, List.map_nil, List.sum_nil]
    omega
  | succ n ih =>
    have hcount := convertToFixed_count s.fxw.val (s.txChannel n) (Region.out.base n) s.nch s.bsize.toNat (s.fixedChannels n)
      fun i j hi hj => txChannel_ne_out hN hB hn hi (by omega) (by omega)
    have hsat : ((List.range s.bsize.toNat).filter fun i =>
        (fixOf s.fxw.val ((s.fixedChannels n).1.readWord (unitStride (Region.out.base n) i))).2).length = s.saturated n := by
      rw [State.saturated, List.filter_congr fun i hi => ?_]
      rw [fixedChannels_out hN hB (Nat.le_of_succ_le hn) (by omega) (by have := List.mem_range.mp hi; omega)]
    rw [hsat, ih (Nat.le_of_succ_le hn)] at hcount
    rw [State.fixedChannels, iterUp_succ, ← State.fixedChannels, hcount, List.range_succ, List.map_append, List.sum_append,
      List.map_singleton, List.sum_singleton]
    omega

omit hN hB in
/-- S5 writes only the block in the transmit slot. -/
theorem fixedChannels_agreeOutside (s : State) :
    s.mem.agreeOutside (s.fixedChannels s.nch.toNat).1 (s.bsize.toNat * s.nch.toNat)
      (unitStride (Region.tx.base s.curSlot.val)) := fun k hk =>
  iterUp_unseen (fun p : Memory × Word => p.1.byteAt k) s.nch.toNat _ (s.mem, s.satCount) fun c p hc =>
    convertToFixed_byteAt _ _ _ _ _ p k fun i hi => by
      rw [txChannel_stride]
      exact hk _ (interleaved_lt_mul hc hi)

end S5

theorem txBlock_length (m : Memory) (slot : Slot) (n : Nat) : (txBlock m slot n).length = n := by
  rw [txBlock, List.length_map, List.length_range]

theorem txBlock_getElem? (m : Memory) (slot : Slot) {n o : Nat} (ho : o < n) :
    (txBlock m slot n)[o]? = some (m.readWord (unitStride (Region.tx.base slot.val) o)) := by
  rw [txBlock, List.getElem?_map, List.getElem?_range ho, Option.map_some]

/-- Settles O43: each sample has a word of the transmit slot to itself, and the output buffers are only read. -/
theorem stepS5EmitsTheBlock : Obligations.StepS5EmitsTheBlock := by
  intro s rest hs hp _ hN _ hB
  refine ⟨_, _, _, ?_, fun c i => fixedChannels_readWord hN hB, txBlock_length _ _ _, fun o => txBlock_getElem? _ _,
    fixedChannels_count hN hB le_rfl, fixedChannels_agreeOutside s⟩
  rw [step_orch_of_some hs (o := .s5) (by rw [State.orchEnabled, hp])]
  exact stepS5_eq (s := { s with turns := rest }) hN hB

end Sys2Proof.Machine
end

section
/-! What a step can start (`43_orchestrator.md` R210, R218): the steps that set `CTRL.RUN`, open a block cycle or move the
slots are few, and the slots stay apart through them (R214, `70_reset_and_hazards.md` R322). -/

namespace Sys2Proof.Machine

/-! ## Steps that start nothing -/

/-- A step that starts nothing: the run and the cycle can only end, a pending block is kept while the run goes on, and the
slots stay. -/
structure StartsNothing (s t : State) : Prop where
  run : t.run = true → s.run = true
  mode : t.run = true → t.mode = s.mode
  ready : t.blockReady = true → s.blockReady = true
  readyStays : t.run = true → t.blockReady = s.blockReady
  active : t.processingActive = true → s.processingActive = true
  rxSlot : t.rxSlot = s.rxSlot
  curSlot : t.curSlot = s.curSlot
  fillSlot : t.fillSlot = s.fillSlot

/-- `CTRL`, the flags and the slots of the block cycle: what `StartsNothing` speaks of. -/
def State.pipeline (s : State) : (Bool × Mode) × (Bool × Bool) × Slot × Slot × Slot :=
  ((s.run, s.mode), (s.blockReady, s.processingActive), s.rxSlot, s.curSlot, s.fillSlot)

theorem StartsNothing.of_pipeline_eq {s t : State} (h : t.pipeline = s.pipeline) : StartsNothing s t := by
  simp only [State.pipeline, Prod.mk.injEq] at h
  obtain ⟨⟨hrun, hmode⟩, ⟨hready, hactive⟩, hrx, hcur, hfill⟩ := h
  exact ⟨hrun ▸ id, fun _ => hmode, hready ▸ id, fun _ => hready, hactive ▸ id, hrx, hcur, hfill⟩

theorem StartsNothing.refl (s : State) : StartsNothing s s := .of_pipeline_eq rfl

theorem StartsNothing.raiseStatus {s t : State} (h : StartsNothing s t) (code : Status) :
    StartsNothing s (t.raiseStatus code) := by
  rw [State.raiseStatus_eq]
  exact { h with }

theorem dispatchJob_startsNothing (s : State) : StartsNothing s s.dispatchJob.2 := by
  obtain ⟨-, e⟩ | ⟨-, -, -, e⟩ | ⟨-, -, -, e⟩ := s.dispatchJob_cases <;> rw [e] <;> exact .of_pipeline_eq rfl

theorem finishWait_startsNothing (s : State) : StartsNothing s s.finishWait := by
  obtain ⟨-, e⟩ | ⟨-, e⟩ := s.finishWait_cases <;> rw [e] <;> exact .of_pipeline_eq rfl

theorem advanceJob_startsNothing (s : State) (next : Word) : StartsNothing s (s.advanceJob next) := by
  obtain ⟨-, e⟩ | ⟨-, -, e⟩ | ⟨-, -, e⟩ := s.advanceJob_cases next <;> rw [e] <;> exact .of_pipeline_eq rfl

theorem stepX1_startsNothing (s : State) : StartsNothing s s.stepX1 := by
  obtain ⟨-, e⟩ | ⟨-, e⟩ := s.stepX1_cases <;> rw [e]
  · exact { advanceJob_startsNothing { s with mem := writeOutputs s.mem (s.mem.descriptor s.cp) } (s.mem.readWord s.cp)
      with }
  · exact .of_pipeline_eq rfl

/-- Of the commands, only `START` starts anything. -/
theorem exec_startsNothing {i : Instr} {s t : State} (hi : i ≠ .start) (h : exec i s = .next t) : StartsNothing s t := by
  cases i with
  | start => exact absurd rfl hi
  | nop => cases h; exact .of_pipeline_eq rfl
  | tofloat | tofixed | stage | capture | configure | isdone =>
    simp only [exec, execTofloat, execTofixed, execStage, execCapture, execConfigure, execIsdone] at h
    split_ifs at h <;> cases h <;> exact .of_pipeline_eq rfl
  | waitdone =>
    rw [exec_waitdone, execWaitdone] at h
    split_ifs at h <;> cases h
    · exact .of_pipeline_eq rfl
    · exact .of_pipeline_eq rfl
    · exact finishWait_startsNothing s
    · exact .of_pipeline_eq rfl
  | dispatch =>
    rw [exec_dispatch, execDispatch] at h
    have hd := dispatchJob_startsNothing s
    split at h
    · cases h; exact .of_pipeline_eq rfl
    · split at h
      · next e => rw [e] at hd; cases h; exact { hd with }
      · next e => rw [e] at hd; cases h; exact hd.raiseStatus _
  | stop =>
    rw [exec_stop, execStop] at h
    split_ifs at h <;> cases h
    · exact .of_pipeline_eq rfl
    · exact { StartsNothing.refl s with run := nofun, mode := nofun, ready := nofun, readyStays := nofun }

/-- Behind the open gate (R44) no run is on, so a write to `CTRL` changes the mode of none. -/
theorem writeReg_startsNothing {s t : State} {r : Reg} {w : Word} (hr : r ≠ .cmd) (h : s.writeReg r w = .next t) :
    StartsNothing s t := by
  cases r with
  | cmd => exact absurd rfl hr
  | ctrl =>
    cases h
    split
    · next hg =>
      have hrun : s.run ≠ true := fun hr => by simp [State.gateOpen, hr] at hg
      exact { StartsNothing.refl s with mode := fun hr => absurd hr hrun }
    · exact .of_pipeline_eq rfl
  | nch | bsize | iter | firHead =>
    cases h
    split <;> exact .of_pipeline_eq rfl
  | _ => cases h; exact .of_pipeline_eq rfl

theorem busRead_startsNothing (s : State) (a : Word) : StartsNothing s (s.busRead a) := by
  unfold State.busRead
  split
  · exact .of_pipeline_eq rfl
  · split <;> exact .of_pipeline_eq rfl

theorem stepS3_startsNothing {s t : State} (h : s.stepS3 = .next t) : StartsNothing s t := by
  have hd : StartsNothing s s.stageAll.dispatchJob.2 := { dispatchJob_startsNothing s.stageAll with }
  unfold State.stepS3 at h
  split at h
  · split at h
    · next e => rw [e] at hd; cases h; exact { hd with }
    · next e => rw [e] at hd; cases h; exact { hd with active := nofun }
    · next e => rw [e] at hd; cases h; exact { hd with }
  · cases h

/-- Of the orchestrator's steps, only S1 starts anything. -/
theorem orchStep_startsNothing {s t : State} {o : OrchStep} (ho : o ≠ .s1) (h : s.orchStep o = .next t) :
    StartsNothing s t := by
  cases o with
  | s1 => exact absurd rfl ho
  | s2 =>
    rw [State.orchStep, State.stepS2] at h
    split_ifs at h
    cases h
    exact .of_pipeline_eq rfl
  | s3 => exact stepS3_startsNothing h
  | s4 => cases h; exact .of_pipeline_eq rfl
  | s5 =>
    rw [State.orchStep, State.stepS5] at h
    split_ifs at h
    cases h
    exact { StartsNothing.refl s with active := nofun }
  | s4v =>
    cases h
    exact { StartsNothing.refl s with run := nofun, mode := nofun, readyStays := nofun, active := nofun }

/-! ## Every step -/

/-- What a step can do to the run, the cycle and the slots. -/
inductive PipelineStep (s : State) : State → Prop where
  | startsNothing {t : State} (h : StartsNothing s t) : PipelineStep s t
  /-- R310. -/
  | reset {rest : List Turn} (hs : s.turns = .reset :: rest) : PipelineStep s (State.hardwareReset { s with turns := rest })
  /-- R212. -/
  | transport {rest : List Turn} {op : TransportOp} {ops : List TransportOp} (hs : s.turns = .transport :: rest)
      (ho : s.transportOps = op :: ops) :
      PipelineStep s (State.transportOp { s with turns := rest, transportOps := ops } op)
  /-- S1 (R219). -/
  | takeBlock {rest : List Turn} (hs : s.turns = .orch :: rest) (he : s.orchEnabled = some .s1) :
      PipelineStep s (State.stepS1 { s with turns := rest })
  /-- `START` (R210), as the host's write to `CMD`. -/
  | start {t : State} {rest : List Turn} {a w : Word} {ops : List HostOp} (hs : s.turns = .host :: rest)
      (hw : s.waitHold = false) (ho : s.hostOps = .write a w :: ops) (ha : regAt a = some .cmd)
      (hd : decode w = .ok .start) (h : exec .start { s with turns := rest, hostOps := ops } = .next t) : PipelineStep s t

theorem hostTurn_pipelineStep {s t : State} {rest : List Turn} (hs : s.turns = .host :: rest)
    (h : State.hostTurn { s with turns := rest } = .next t) : PipelineStep s t := by
  unfold State.hostTurn at h
  split at h
  · cases h
    split
    · exact .startsNothing { finishWait_startsNothing { s with turns := rest } with }
    · exact .startsNothing (.of_pipeline_eq rfl)
  · next hw =>
    split at h
    · cases h; exact .startsNothing (.of_pipeline_eq rfl)
    · next op ops ho =>
      cases op with
      | read a => cases h; exact .startsNothing { busRead_startsNothing { s with turns := rest, hostOps := ops } a with }
      | write a w =>
        obtain ⟨-, rfl⟩ | ⟨-, -, rfl⟩ | ⟨r, -, hr, hwr⟩ | ⟨-, e, -, rfl⟩ | ⟨ha, i, hi, hx⟩ := busWrite_cases _ t a w h
        · exact .startsNothing (.of_pipeline_eq rfl)
        · exact .startsNothing (.of_pipeline_eq rfl)
        · exact .startsNothing { writeReg_startsNothing hr hwr with }
        · exact .startsNothing (.of_pipeline_eq rfl)
        · by_cases hst : i = .start
          · subst hst
            exact .start hs (by simpa using hw) ho ha hi hx
          · exact .startsNothing { exec_startsNothing hst hx with }

theorem stepOrch_pipelineStep {s t : State} {rest : List Turn} (hs : s.turns = .orch :: rest) (h : step s = .next t) :
    PipelineStep s t := by
  cases he : s.orchEnabled with
  | none =>
    rw [step_orch s rest hs, stepOrch_of_none (s := { s with turns := rest }) he] at h
    cases h
    exact .startsNothing (.of_pipeline_eq rfl)
  | some o =>
    rw [step_orch_of_some hs he] at h
    by_cases ho : o = .s1
    · subst ho
      cases h
      exact .takeBlock hs he
    · exact .startsNothing { orchStep_startsNothing ho h with }

theorem step_pipelineStep {s t : State} (h : step s = .next t) : PipelineStep s t := by
  cases hs : s.turns with
  | nil => rw [step_nil s hs] at h; cases h; exact .startsNothing (.of_pipeline_eq rfl)
  | cons turn rest =>
    cases turn with
    | host => exact hostTurn_pipelineStep hs ((step_cons s _ rest hs).symm.trans h)
    | orch => exact stepOrch_pipelineStep hs h
    | reset => rw [step_cons s _ rest hs] at h; cases h; exact .reset hs
    | accel =>
      rw [step_cons s _ rest hs] at h
      cases h
      split
      · exact .startsNothing { stepX1_startsNothing { s with turns := rest } with }
      · exact .startsNothing (.of_pipeline_eq rfl)
    | transport =>
      cases ho : s.transportOps with
      | nil =>
        rw [step_cons s _ rest hs, State.takeTurn, State.transportTurn, ho] at h
        cases h
        exact .startsNothing (.of_pipeline_eq rfl)
      | cons op ops => rw [step_transport s rest op ops hs ho] at h; cases h; exact .transport hs ho

/-! ## `START` is the only way to set `CTRL.RUN` (R210) -/

theorem transportOp_run (s : State) (op : TransportOp) : (s.transportOp op).run = s.run := by
  cases op with
  | write slot offset w => rfl
  | read slot offset => rfl
  | deliver slot group =>
    have hd : (s.deliver slot group).run = s.run := by
      obtain ⟨-, e⟩ | ⟨-, -, e⟩ | ⟨-, -, -, e⟩ := s.deliver_cases slot group <;> rw [e]
    rw [State.transportOp]
    split <;> exact hd

/-- Settles O54: no other step starts a run, and the word that decodes as `START` is its encoding. -/
theorem onlyStartSetsRun : Obligations.OnlyStartSetsRun := by
  intro s t hstep hs ht
  cases step_pipelineStep hstep with
  | startsNothing h => exact absurd (hs.symm.trans (h.run ht)) nofun
  | reset => cases ht
  | transport => rw [transportOp_run] at ht; exact absurd (hs.symm.trans ht) nofun
  | takeBlock => exact absurd (hs.symm.trans ht) nofun
  | @start _ rest a w ops hturn hw ho ha hd _ =>
    obtain ⟨rfl, -⟩ := legalWordsAreEncodings w _ hd
    exact ⟨congrArg List.head? hturn, hw, a, ha, congrArg List.head? ho⟩

/-! ## The slots stay apart (R214, R322) -/

theorem State.SlotsApart.of_startsNothing {s t : State} (h : s.SlotsApart) (hst : StartsNothing s t) : t.SlotsApart where
  pending hb := by
    rw [hst.rxSlot, hst.fillSlot]
    exact h.pending (hst.ready hb)
  current he ha hb := by
    obtain ⟨hr, hm⟩ := t.transportEnable_iff.mp he
    rw [hst.curSlot, hst.fillSlot]
    exact h.current (s.transportEnable_iff.mpr ⟨hst.run hr, (hst.mode hr).symm.trans hm⟩) (hst.active ha)
      ((hst.readyStays hr).symm.trans hb)

/-- No transfer is on and nothing is pending after a reset. -/
theorem hardwareReset_slotsApart (s : State) : s.hardwareReset.SlotsApart := ⟨nofun, nofun⟩

/-- A live `START` finds no cycle (I1); an offline run has no transport. -/
theorem State.SlotsApart.start {s t : State} (h : s.SlotsApart) (hinv : s.Inv) (hst : exec .start s = .next t) :
    t.SlotsApart := by
  by_cases hbusy : s.run = true ∨ s.phase ≠ .idle ∨ s.accelBusy = true ∨ s.filterDone = true
  · rw [exec_start_busy hbusy] at hst
    cases hst
    exact { h with }
  · obtain ⟨hr, hp, hb, hd⟩ : s.run = false ∧ s.phase = .idle ∧ s.accelBusy = false ∧ s.filterDone = false := by
      simpa using hbusy
    by_cases hc : s.cfgError = true ∨ s.checkStart = false
    · rw [exec_start_refused hr hp hb hd hc] at hst
      cases hst
      exact { h with }
    · obtain ⟨he, hcheck⟩ : s.cfgError = false ∧ s.checkStart = true := by simpa using hc
      cases hm : s.mode with
      | liveStreaming =>
        rw [exec_start_live hr hp hb hd he hcheck hm] at hst
        cases hst
        exact ⟨nofun, fun _ ha => absurd hp (hinv.guardIsPhase.mp ha)⟩
      | offlineValidation =>
        rw [exec_start_offline hr hp hb hd he hcheck hm] at hst
        cases hst
        exact ⟨nofun, fun hen => absurd (hm.symm.trans ((State.transportEnable_iff _).mp hen).2) nofun⟩

/-- S1 makes the pending slot the cycle's. -/
theorem State.SlotsApart.stepS1 {s : State} (h : s.SlotsApart) (he : s.orchEnabled = some .s1) : s.stepS1.SlotsApart := by
  have hp : s.phase = .idle := orchEnabled_phase s _ he
  rw [orchEnabled_idle hp] at he
  obtain ⟨-, -, hready⟩ : s.run = true ∧ s.mode = .liveStreaming ∧ s.blockReady = true := by simpa using he
  exact ⟨nofun, fun _ _ _ => h.pending hready⟩

/-- A contract-keeping delivery is of the slot being filled, and the transport moves on to the other one. -/
theorem State.SlotsApart.transportOp {s : State} (h : s.SlotsApart) {op : TransportOp} (hop : op.keepsContract s) :
    (s.transportOp op).SlotsApart := by
  cases op with
  | write slot offset w => exact { h with }
  | read slot offset => exact { h with }
  | deliver slot group =>
    obtain ⟨he, rfl, rfl, -⟩ := hop
    have hother : ∀ f : Slot, Fin.ofNat 2 f.val ≠ f + 1 := by decide
    rw [transportOp_deliver_turns ⟨he, rfl, rfl⟩, deliver_accepted he rfl (Nat.le_of_lt_succ s.fillSlot.isLt)]
    exact ⟨fun _ => hother s.fillSlot, nofun⟩

/-- Settles O59, by the steps that start something. -/
theorem contractKeepsTheSlotsApart : Obligations.ContractKeepsTheSlotsApart := by
  refine ⟨hardwareReset_slotsApart State.reset, fun s t hinv h hbehaves hstep => ?_⟩
  cases step_pipelineStep hstep with
  | startsNothing hst => exact h.of_startsNothing hst
  | reset => exact hardwareReset_slotsApart _
  | @transport rest op ops hs ho =>
    exact State.SlotsApart.transportOp (s := { s with turns := rest, transportOps := ops }) { h with }
      (hbehaves rest op ops hs ho)
  | @takeBlock rest _ he => exact State.SlotsApart.stepS1 (s := { s with turns := rest }) { h with } he
  | @start _ rest a w ops _ _ _ _ _ hx =>
    exact State.SlotsApart.start (s := { s with turns := rest, hostOps := ops }) { h with } { hinv with } hx

end Sys2Proof.Machine
end

section
/-! The host's steps (`44_host_bus.md`): bus reads (R251), commands by the write to `CMD` (R253, R254), and what every step of
the machine can do to `PHASE` (R259, `43_orchestrator.md` R218). -/

namespace Sys2Proof.Machine

/-! ## Bus reads (R251) -/

theorem busRead_mapped {s : State} {a : Word} (ha : mapped a = true) :
    s.busRead a = { s with busReads := s.busReads ++ [s.word a] } := by
  rw [State.busRead, if_pos ha]

theorem busRead_register {s : State} {a : Word} {r : Reg} (hr : regAt a = some r) :
    s.busRead a = { s with busReads := s.busReads ++ [s.readReg r] } := by
  rw [State.busRead, mapped_eq_false_of_regAt hr, hr]
  rfl

theorem busRead_unmapped {s : State} {a : Word} (ha : mapped a = false) (hr : regAt a = none) :
    s.busRead a = { s with busReads := s.busReads ++ [0], busFault := true } := by
  rw [State.busRead, ha, hr]
  rfl

/-- Settles O44: the host's turn is the bus read, in each of its three cases. -/
theorem busReadHasNoSideEffect : Obligations.BusReadHasNoSideEffect := by
  intro s rest a ops hs ho hw
  have hread : step s = .next (State.busRead { s with turns := rest, hostOps := ops } a) := step_host s rest _ ops hs ho hw
  rw [hread]
  exact ⟨fun ha => congrArg _ (busRead_mapped ha), fun _ _ hr => congrArg _ (busRead_register hr),
    fun ha hr => congrArg _ (busRead_unmapped ha hr)⟩

/-! ## Commands (R253, R254) -/

theorem runCommand_of_decode {w : Word} {i : Instr} (hd : decode w = .ok i) (s : State) : runCommand w s = exec i s := by
  rw [runCommand, hd]

/-- Settles O4: register `0x0D` is `CMD`, and a write to it runs the word. -/
theorem stepRunsDecodedCommand : Obligations.StepRunsDecodedCommand := by
  intro s w i rest ops hs ho hw hd
  have hcmd : regAt 0xFF00000D = some .cmd := regAt_regBase 0x0D (by decide)
  rw [step_writeReg hs ho hw hcmd, State.writeReg, runCommand_of_decode hd]

theorem exec_nop (s : State) : exec .nop s = .next (s.complete 0) := rfl

/-- Settles O6: `NOP` is only the end of a command. -/
theorem nopOnlyClearsStatus : Obligations.NopOnlyClearsStatus := exec_nop

/-! ## What leaves `PHASE` as it is -/

theorem dispatchJob_phase (s : State) : s.dispatchJob.2.phase = s.phase := by
  obtain ⟨-, e⟩ | ⟨-, -, -, e⟩ | ⟨-, -, -, e⟩ := s.dispatchJob_cases <;> rw [e]

theorem finishWait_phase (s : State) : s.finishWait.phase = s.phase := by
  obtain ⟨-, e⟩ | ⟨-, e⟩ := s.finishWait_cases <;> rw [e]

/-- Of the commands, only `START` moves `PHASE`. -/
theorem exec_phase {i : Instr} {s t : State} (hi : i ≠ .start) (h : exec i s = .next t) : t.phase = s.phase := by
  cases i with
  | start => exact absurd rfl hi
  | nop => cases h; rfl
  | tofloat | tofixed | stage | capture | configure | isdone | stop =>
    simp only [exec, execTofloat, execTofixed, execStage, execCapture, execConfigure, execIsdone, execStop] at h
    split_ifs at h <;> cases h <;> rfl
  | waitdone =>
    rw [exec_waitdone, execWaitdone] at h
    split_ifs at h <;> cases h
    · rfl
    · rfl
    · exact finishWait_phase s
    · rfl
  | dispatch =>
    rw [exec_dispatch, execDispatch] at h
    have hd := dispatchJob_phase s
    split at h
    · cases h; rfl
    · split at h
      · next e => rw [e] at hd; cases h; exact hd
      · next e => rw [e] at hd; cases h; exact (State.raiseStatus_phase _ _).trans hd

theorem writeReg_phase {s t : State} {r : Reg} {w : Word} (hr : r ≠ .cmd) (h : s.writeReg r w = .next t) :
    t.phase = s.phase := by
  cases r with
  | cmd => exact absurd rfl hr
  | ctrl | nch | bsize | iter | firHead =>
    cases h
    split <;> rfl
  | _ => cases h; rfl

theorem busRead_phase (s : State) (a : Word) : (s.busRead a).phase = s.phase := by
  unfold State.busRead
  split
  · rfl
  · split <;> rfl

theorem stepX1_phase (s : State) : s.stepX1.phase = s.phase := by
  have hadvance : ∀ (u : State) (next : Word), (u.advanceJob next).phase = u.phase := fun u next => by
    obtain ⟨-, e⟩ | ⟨-, -, e⟩ | ⟨-, -, e⟩ := u.advanceJob_cases next <;> rw [e]
  obtain ⟨-, e⟩ | ⟨-, e⟩ := s.stepX1_cases <;> rw [e]
  exact hadvance _ _

theorem transportTurn_phase (s : State) : s.transportTurn.phase = s.phase := by
  have hdeliver : ∀ (u : State) (slot group : Nat), (u.deliver slot group).phase = u.phase := fun u slot group => by
    obtain ⟨-, e⟩ | ⟨-, -, e⟩ | ⟨-, -, -, e⟩ := u.deliver_cases slot group <;> rw [e]
  unfold State.transportTurn
  split
  · rfl
  · next op ops _ =>
    cases op with
    | write slot offset w => rfl
    | read slot offset => rfl
    | deliver slot group =>
      rw [State.transportOp]
      split <;> exact hdeliver { s with transportOps := ops } slot group

/-! ## The arrows of the state machine (R218, R259) -/

/-- The moves of `PHASE`, each named by the step that makes it. -/
inductive PhaseArrow : Phase → Phase → Prop where
  | s1 : PhaseArrow .idle .converting
  | s2 : PhaseArrow .converting .staging
  | s3 : PhaseArrow .staging .dispatched
  | s4 : PhaseArrow .dispatched .emitting
  | s5 : PhaseArrow .emitting .idle
  /-- `START` in offline validation (R210). -/
  | startOffline : PhaseArrow .idle .dispatched
  /-- The return of S4V (R225). -/
  | s4v : PhaseArrow .dispatched .idle
  /-- S3 abandons the block when its `Dispatch()` overruns (R221). -/
  | abandon : PhaseArrow .staging .idle

theorem PhaseArrow.mem_list {p q : Phase} (h : PhaseArrow p q) :
    (p, q) ∈ [(Phase.idle, Phase.converting), (.converting, .staging), (.staging, .dispatched),
      (.dispatched, .emitting), (.emitting, .idle), (.idle, .dispatched), (.dispatched, .idle), (.staging, .idle)] := by
  cases h <;> decide

/-- `PHASE` keeps its value or follows an arrow. -/
def PhaseStep (p q : Phase) : Prop := q = p ∨ PhaseArrow p q

/-- `START` passes its guard in `IDLE` only, and leaves it in offline validation only (R210). -/
theorem exec_start_phaseStep {s t : State} (h : exec .start s = .next t) : PhaseStep s.phase t.phase := by
  by_cases hp : s.phase = .idle
  · rw [exec_start, execStart] at h
    split_ifs at h
    · cases h; exact .inl rfl
    · cases h; exact .inl rfl
    · split at h <;> cases h
      · exact .inr (hp ▸ .startOffline)
      · exact .inl rfl
  · rw [exec_start_busy (.inr (.inl hp))] at h
    cases h
    exact .inl rfl

theorem exec_phaseStep {i : Instr} {s t : State} (h : exec i s = .next t) : PhaseStep s.phase t.phase := by
  by_cases hi : i = .start
  · subst hi
    exact exec_start_phaseStep h
  · exact .inl (exec_phase hi h)

theorem busWrite_phaseStep {s t : State} {a w : Word} (h : s.busWrite a w = .next t) : PhaseStep s.phase t.phase := by
  obtain ⟨-, rfl⟩ | ⟨-, -, rfl⟩ | ⟨r, -, hr, hw⟩ | ⟨-, e, -, rfl⟩ | ⟨-, i, -, hx⟩ := busWrite_cases s t a w h
  · exact .inl rfl
  · exact .inl rfl
  · exact .inl (writeReg_phase hr hw)
  · exact .inl rfl
  · exact exec_phaseStep hx

theorem hostTurn_phaseStep {s t : State} (h : s.hostTurn = .next t) : PhaseStep s.phase t.phase := by
  unfold State.hostTurn at h
  split at h
  · cases h
    split
    · exact .inl (finishWait_phase s)
    · exact .inl rfl
  · split at h
    · cases h; exact .inl rfl
    · next op ops _ =>
      cases op with
      | read a => cases h; exact .inl (busRead_phase _ a)
      | write a w => exact busWrite_phaseStep (s := { s with hostOps := ops }) h

/-- S3 leaves `STAGING` for `DISPATCHED`, or, at an overrun, for `IDLE` (R221). -/
theorem stepS3_phase {s t : State} (h : s.stepS3 = .next t) : t.phase = .dispatched ∨ t.phase = .idle := by
  unfold State.stepS3 at h
  split at h
  · split at h <;> cases h
    · exact .inl rfl
    · exact .inr rfl
    · exact .inl rfl
  · cases h

/-- An enabled step of the orchestrator follows its own arrow. -/
theorem orchStep_phaseArrow {s t : State} {o : OrchStep} (he : s.orchEnabled = some o) (h : s.orchStep o = .next t) :
    PhaseArrow s.phase t.phase := by
  rw [orchEnabled_phase s o he]
  cases o with
  | s1 => cases h; exact .s1
  | s2 =>
    rw [State.orchStep, State.stepS2] at h
    split at h <;> cases h
    exact .s2
  | s3 =>
    obtain e | e := stepS3_phase h <;> rw [e]
    · exact .s3
    · exact .abandon
  | s4 => cases h; exact .s4
  | s5 =>
    rw [State.orchStep, State.stepS5] at h
    split at h <;> cases h
    exact .s5
  | s4v => cases h; exact .s4v

theorem stepOrch_phaseStep {s t : State} (h : s.stepOrch = .next t) : PhaseStep s.phase t.phase := by
  cases he : s.orchEnabled with
  | none =>
    rw [stepOrch_of_none he] at h
    cases h
    exact .inl rfl
  | some o => exact .inr (orchStep_phaseArrow he ((stepOrch_of_some he).symm.trans h))

/-- Only a hardware reset moves `PHASE` off the arrows. -/
theorem step_phaseStep {s t : State} (h : step s = .next t) (hr : s.turns.head? ≠ some .reset) :
    PhaseStep s.phase t.phase := by
  cases hs : s.turns with
  | nil => rw [step_nil s hs] at h; cases h; exact .inl rfl
  | cons turn rest =>
    rw [step_cons s turn rest hs] at h
    cases turn with
    | host => exact hostTurn_phaseStep (s := { s with turns := rest }) h
    | transport => cases h; exact .inl (transportTurn_phase _)
    | orch => exact stepOrch_phaseStep (s := { s with turns := rest }) h
    | accel =>
      cases h
      split
      · exact .inl (stepX1_phase _)
      · exact .inl rfl
    | reset => exact absurd (congrArg List.head? hs) hr

/-- Settles O53: a step that moves `PHASE` follows an arrow. -/
theorem phaseMovesAlongTheArrows : Obligations.PhaseMovesAlongTheArrows :=
  fun _ _ h hr hne => ((step_phaseStep h hr).resolve_left hne).mem_list

end Sys2Proof.Machine
end

section
/-! Exceptions (`60_exceptions.md`): when a command is refused as busy (R279), and what one that ends with an error has
changed (R270, R271). -/

namespace Sys2Proof.Machine

/-! ## The busy cells and the end with an error (R279, R271) -/

/-- The `B` cells of R279's table: the run states in which a command is refused with `ERR_BUSY`. -/
def State.refusesBusy (s : State) : Instr → Prop
  | .nop => False
  | .tofloat | .tofixed | .capture _ | .dispatch | .isdone | .waitdone => s.run = true
  | .stage _ | .configure _ => s.run = true ∨ s.accelBusy = true
  | .start => s.run = true ∨ s.phase ≠ .idle ∨ s.accelBusy = true ∨ s.filterDone = true
  | .stop => s.run = false ∨ s.phase ≠ .idle ∨ s.accelBusy = true

/-- A command that ends with `code`, at the one place that counts an overrun (R271; `90_conflicts.md` C8): `STATUS`, `RES` and
the side effect of R270's last column. -/
def State.failedWith (s : State) (code : Status) : State :=
  { s with
    status := code
    res := 0
    cfgError := s.cfgError || decide (code = .errConfig)
    busFault := s.busFault || decide (code = .errBus)
    overrunCount := if code = .errOverrun then satInc s.overrunCount else s.overrunCount }

/-- `raise Status(code)` leaves the count of an overrun to `Dispatch()`; for any other code it does all of R271. -/
theorem State.raiseStatus_eq_failedWith (s : State) {code : Status} (h : code ≠ .errOverrun) :
    s.raiseStatus code = s.failedWith code := by
  rw [State.raiseStatus_eq, State.failedWith, if_neg h]

/-- `Dispatch()` at an overrun, then `raise Status(ERR_OVERRUN)`: together one count (R175, R271). -/
theorem State.raiseStatus_overrun (s : State) :
    State.raiseStatus { s with overrunCount := satInc s.overrunCount } .errOverrun = s.failedWith .errOverrun := by
  simp [State.raiseStatus_eq, State.failedWith]

/-! ## How a command answers -/

/-- Every answer of a command: it completes, it fails with a code, or it is a `WAITDONE` that holds. `ERR_BUSY` is the code of
the busy cells and of no other. -/
inductive CommandAnswer (s : State) : Instr → Outcome → Prop where
  /-- The command ends `OK`. -/
  | completed {i : Instr} (accepted : ¬ s.refusesBusy i) (t : State) (result : Word) :
      CommandAnswer s i (.next (t.complete result))
  /-- The command ends with an error (R271). -/
  | failed {i : Instr} (code : Status) (error : code ≠ .ok) (busy : code = .errBusy ↔ s.refusesBusy i) :
      CommandAnswer s i (.next (s.failedWith code))
  /-- `WAITDONE` has not ended (`42_fir_engine.md` R181). -/
  | held (accepted : ¬ s.refusesBusy .waitdone) : CommandAnswer s .waitdone (.next { s with waitHold := true })

/-- A check after the busy check fails; the codes are those of R270 that `raise Status` alone brings about. -/
theorem CommandAnswer.rejected {s : State} {i : Instr} (accepted : ¬ s.refusesBusy i) {code : Status}
    (hcode : code = .errConfig ∨ code = .errBus ∨ code = .errNoJob) :
    CommandAnswer s i (.next (s.raiseStatus code)) := by
  have herror : code ≠ .ok := by obtain rfl | rfl | rfl := hcode <;> nofun
  have hbusy : code ≠ .errBusy := by obtain rfl | rfl | rfl := hcode <;> nofun
  have hover : code ≠ .errOverrun := by obtain rfl | rfl | rfl := hcode <;> nofun
  rw [s.raiseStatus_eq_failedWith hover]
  exact .failed code herror ⟨fun h => absurd h hbusy, fun h => absurd h accepted⟩

/-- The shape that `STAGE`, `CAPTURE` and `CONFIGURE` share past their busy check: operands, then addresses (R272). -/
theorem CommandAnswer.checked {s : State} {i : Instr} (accepted : ¬ s.refusesBusy i) {illegal unmapped : Prop}
    [Decidable illegal] [Decidable unmapped] (t : State) (result : Word) :
    CommandAnswer s i (if illegal then .next (s.raiseStatus .errConfig) else if unmapped then
      .next (s.raiseStatus .errBus) else .next (t.complete result)) := by
  split
  · exact .rejected accepted (by simp)
  · split
    · exact .rejected accepted (by simp)
    · exact .completed accepted t result

theorem exec_isdone_busy {s : State} (h : s.run = true) :
    exec .isdone s = .next { s with status := .errBusy, res := 0 } := (isdoneCommand s).1 h

theorem exec_waitdone_busy {s : State} (h : s.run = true) :
    exec .waitdone s = .next { s with status := .errBusy, res := 0 } := by
  rw [exec_waitdone, execWaitdone, if_pos h]
  rfl

/-- In its busy cells a command only raises `ERR_BUSY`. -/
theorem exec_of_refusesBusy {s : State} {i : Instr} (h : s.refusesBusy i) :
    exec i s = .next (s.raiseStatus .errBusy) := by
  cases i with
  | nop => exact h.elim
  | tofloat => exact exec_tofloat_busy h
  | tofixed => exact exec_tofixed_busy h
  | stage c => exact exec_stage_busy c h
  | capture c => exact exec_capture_busy c h
  | configure c => exact exec_configure_busy c h
  | dispatch => exact exec_dispatch_busy h
  | isdone => exact exec_isdone_busy h
  | waitdone => exact exec_waitdone_busy h
  | start => exact exec_start_busy h
  | stop => exact exec_stop_busy h

section Accepted
variable {s : State}

theorem exec_tofloat_answer (h : ¬ s.refusesBusy .tofloat) : CommandAnswer s .tofloat (exec .tofloat s) := by
  rw [exec_tofloat, execTofloat, if_neg (by simpa [State.refusesBusy] using h)]
  split
  · exact .completed h _ _
  · exact .rejected h (by simp)

theorem exec_tofixed_answer (h : ¬ s.refusesBusy .tofixed) : CommandAnswer s .tofixed (exec .tofixed s) := by
  rw [exec_tofixed, execTofixed, if_neg (by simpa [State.refusesBusy] using h)]
  split
  · exact .completed h _ _
  · exact .rejected h (by simp)

theorem exec_stage_answer (c : Nat) (h : ¬ s.refusesBusy (.stage c)) :
    CommandAnswer s (.stage c) (exec (.stage c) s) := by
  rw [exec_stage, execStage, if_neg (by simpa [State.refusesBusy] using h)]
  exact .checked h _ _

theorem exec_capture_answer (c : Nat) (h : ¬ s.refusesBusy (.capture c)) :
    CommandAnswer s (.capture c) (exec (.capture c) s) := by
  rw [exec_capture, execCapture, if_neg (by simpa [State.refusesBusy] using h)]
  exact .checked h _ _

theorem exec_configure_answer (c : Nat) (h : ¬ s.refusesBusy (.configure c)) :
    CommandAnswer s (.configure c) (exec (.configure c) s) := by
  rw [exec_configure, execConfigure, if_neg (by simpa [State.refusesBusy] using h)]
  exact .checked h _ _

/-- The command ends with what `Dispatch()` did: an overrun counted there, a job armed, or a configuration error that
`Dispatch()` and `raise Status` both note in `cfgError`. -/
theorem exec_dispatch_answer (h : ¬ s.refusesBusy .dispatch) : CommandAnswer s .dispatch (exec .dispatch s) := by
  rw [exec_dispatch, execDispatch, if_neg (by simpa [State.refusesBusy] using h)]
  obtain ⟨-, e⟩ | ⟨-, -, -, e⟩ | ⟨-, -, -, e⟩ := s.dispatchJob_cases <;> rw [e]
  · show CommandAnswer s .dispatch (.next (State.raiseStatus { s with overrunCount := satInc s.overrunCount } .errOverrun))
    rw [State.raiseStatus_overrun]
    exact .failed .errOverrun nofun ⟨nofun, fun hb => absurd hb h⟩
  · exact .completed h _ _
  · exact .rejected (code := .errConfig) h (by simp)

theorem exec_isdone_answer (h : ¬ s.refusesBusy .isdone) : CommandAnswer s .isdone (exec .isdone s) := by
  rw [exec_isdone, execIsdone, if_neg (by simpa [State.refusesBusy] using h)]
  split
  · exact .completed h _ _
  · exact .completed h _ _

/-- Past its checks, `WAITDONE` ends at once only when the completion is there to observe (R181): without it a job
is in flight, and the hold stays. -/
theorem exec_waitdone_answer (h : ¬ s.refusesBusy .waitdone) : CommandAnswer s .waitdone (exec .waitdone s) := by
  rw [exec_waitdone, execWaitdone, if_neg (by simpa [State.refusesBusy] using h)]
  split
  · exact .rejected h (by simp)
  · next hjob =>
    split
    · next hlifted =>
      have hdone : s.filterDone = true := by
        obtain hd | hb : s.filterDone = true ∨ s.accelBusy = false := by simpa [State.holdLifted] using hlifted
        · exact hd
        · simpa [hb] using hjob
      rw [finishWait_of_done s hdone]
      exact .completed h { s with filterDone := false, waitHold := false } 1
    · exact .held h

theorem exec_start_answer (h : ¬ s.refusesBusy .start) : CommandAnswer s .start (exec .start s) := by
  rw [exec_start, execStart, if_neg (by simpa [State.refusesBusy, or_assoc] using h)]
  split
  · exact .rejected h (by simp)
  · split
    · exact .completed h _ _
    · exact .completed h _ _

theorem exec_stop_answer (h : ¬ s.refusesBusy .stop) : CommandAnswer s .stop (exec .stop s) := by
  rw [exec_stop, execStop, if_neg (by simpa [State.refusesBusy, or_assoc] using h)]
  exact .completed h _ _

end Accepted

/-- Every command answers in every state, in one of the ways listed. -/
theorem exec_answer (i : Instr) (s : State) : CommandAnswer s i (exec i s) := by
  by_cases h : s.refusesBusy i
  · rw [exec_of_refusesBusy h, s.raiseStatus_eq_failedWith (code := .errBusy) (by simp)]
    exact .failed .errBusy nofun (iff_of_true rfl h)
  · cases i with
    | nop => exact .completed h s 0
    | tofloat => exact exec_tofloat_answer h
    | tofixed => exact exec_tofixed_answer h
    | stage c => exact exec_stage_answer c h
    | capture c => exact exec_capture_answer c h
    | configure c => exact exec_configure_answer c h
    | dispatch => exact exec_dispatch_answer h
    | isdone => exact exec_isdone_answer h
    | waitdone => exact exec_waitdone_answer h
    | start => exact exec_start_answer h
    | stop => exact exec_stop_answer h

/-! ## What the answers say of `STATUS` and of the rest of the state -/

/-- A command that ends is busy in its busy cells and only there; a `WAITDONE` that holds keeps the old `STATUS`, whatever it
was. -/
theorem CommandAnswer.busy_iff {s : State} {i : Instr} {o : Outcome} (h : CommandAnswer s i o) :
    ∃ t, o = .next t ∧ (s.refusesBusy i → t.status = .errBusy) ∧
      (i ≠ .waitdone → t.status = .errBusy → s.refusesBusy i) := by
  cases h with
  | completed accepted t result => exact ⟨_, rfl, fun hb => absurd hb accepted, fun _ => nofun⟩
  | failed code error busy => exact ⟨_, rfl, busy.mpr, fun _ => busy.mp⟩
  | held accepted => exact ⟨_, rfl, fun hb => absurd hb accepted, fun hi => absurd rfl hi⟩

/-- A command that has ended, and not with `OK`, leaves the state `failedWith` its code. -/
theorem CommandAnswer.eq_failedWith {s t : State} {i : Instr} (h : CommandAnswer s i (.next t)) (hok : t.status ≠ .ok)
    (hend : i = .waitdone → t.waitHold = false) : t = s.failedWith t.status := by
  cases h with
  | completed accepted t result => exact absurd rfl hok
  | failed code error busy => rfl
  | held accepted => exact absurd (hend rfl) nofun

/-- Settles O7: each row of R279's table is `refusesBusy` of its command. -/
theorem busyExactlyWhereTheTableSays : Obligations.BusyExactlyWhereTheTableSays := by
  intro s i
  obtain ⟨t, ht, hbusy, hcell⟩ := (exec_answer i s).busy_iff
  refine ⟨t, ht, ?_⟩
  cases i with
  | nop => exact hcell nofun
  | waitdone => exact hbusy
  | tofloat | tofixed | stage | capture | configure | dispatch | isdone | start | stop => exact ⟨hcell nofun, hbusy⟩

/-- Settles O8: the state it names is `failedWith` the status the command ended with. -/
theorem failedCommandsChangeNothingElse : Obligations.FailedCommandsChangeNothingElse := by
  intro s t i hexec hok hend
  have hanswer : CommandAnswer s i (.next t) := hexec ▸ exec_answer i s
  exact hanswer.eq_failedWith hok fun hi => (hend hi).2

end Sys2Proof.Machine
end
